-- ==== Sys2Proof/Word.lean ====
section
/-!
DEFINITION. The byte and the byte string of 00_scope.md R12 and R13. The block has no wider general word: its 16-bit
values (command word, LEN16, CAP16, VAL16, CRC, declared_body_len) are `BitVec 16`; counts and indices are natural
numbers (R12: arithmetic is on unbounded non-negative integers unless a width is named).
-/

namespace Sys2Proof

/-- A byte, an unsigned 8-bit value (R12). -/
abbrev Byte := BitVec 8

/-- A byte string, a finite list of bytes (R13). -/
abbrev Bytes := List Byte

/-- A `u16`, an unsigned 16-bit value (R12). -/
abbrev U16 := BitVec 16

end Sys2Proof
end

