-- ==== Sys2Proof/Machine/Bits.lean ====
section
/-!
DEFINITION. The big-endian helpers of 00_scope.md R14 and the bit field `v[hi:lo]` of R12.
-/

namespace Sys2Proof.Machine

/-- `be16(h, l) = h*256 + l` (R14). -/
def be16 (h l : Byte) : U16 := BitVec.ofNat 16 (h.toNat * 256 + l.toNat)

/-- `hi8(v) = v[15:8]` (R14). -/
def hi8 (v : U16) : Byte := v.extractLsb' 8 8

/-- `lo8(v) = v[7:0]` (R14). -/
def lo8 (v : U16) : Byte := v.extractLsb' 0 8

/-- `BE16(v) = [hi8(v), lo8(v)]` (R14). -/
def beBytes (v : U16) : Bytes := [hi8 v, lo8 v]

/-- `v[hi:lo]` of a non-negative integer, zero-extended (R12). -/
def bitField (v hi lo : Nat) : Nat := v / 2 ^ lo % 2 ^ (hi + 1 - lo)

/-- A natural number as a `u16`: used only where the value is known to fit. -/
def u16OfNat (n : Nat) : U16 := BitVec.ofNat 16 n

end Sys2Proof.Machine
end

