-- ==== Sys2Proof/Config.lean ====
section
/-!
DEFINITION. What an implementation of the block fixes (00_scope.md section 4, 92_eei_decisions.md "OPEN parameters"):
the build parameters, the sink's error type and the answers of a `Send`.

The three numeric parameters are OPEN. They are DATA of the state (`State.cfg`), so that a statement about every state is
a statement about every admissible build (log entry 1).
-/

namespace Sys2Proof

/-- The maximum encoded frame length, tag to newline (R8, 30_encoding.md R61). -/
def maxFrame : Nat := 128

/-- The build parameters: fixed when the block is built, read and written by no command (10_state.md R36). -/
structure BuildParams where
  /-- RAW_CAP, the capacity of `raw_buf` in bytes (R9). -/
  rawCap : Nat
  /-- ENC_CAP, the capacity of `enc_buf` in bytes (R10). -/
  encCap : Nat
  /-- FRAME_GROUPS, the most 4-character groups the TX encoder puts in one frame (R11). -/
  frameGroups : Nat
deriving DecidableEq, Repr

/-- The ranges the spec admits: `4 <= RAW_CAP <= 65539` (R9), `ENC_CAP >= 3` (R10), `2 <= FRAME_GROUPS <= 31` (R11). -/
abbrev BuildParams.Admissible (p : BuildParams) : Prop :=
  4 ≤ p.rawCap ∧ p.rawCap ≤ 65539 ∧ 3 ≤ p.encCap ∧ 2 ≤ p.frameGroups ∧ p.frameGroups ≤ 31

/-- The reference values of 00_scope.md section 4 (DESIGN CHOICE, unsafe: a real build may have others; log entry 1). -/
def BuildParams.reference : BuildParams := { rawCap := 512, encCap := 128, frameGroups := 31 }

/-- The sink's error value `e : SinkErr`, an OPEN type (R174, I9): a tag that the block carries and never looks into
(DESIGN CHOICE, log entry 2). -/
structure SinkErr where
  tag : Nat
deriving DecidableEq, Repr

/-- The environment's answer to one `Send` (43_tx_encoder.md R174). -/
inductive SendAnswer where
  | ok
  | err (e : SinkErr)
deriving DecidableEq, Repr

end Sys2Proof
end

