-- ==== Sys2Proof/Syntax.lean ====
section
/-!
DEFINITION. The seven commands of the block (30_encoding.md R69, R81): one constructor per row of
spec/opcode_table.json, carrying the operands that follow the command word (R66, R68).
-/

namespace Sys2Proof

/-- The two command ports of one copy of the block (10_state.md R33). -/
inductive Port where
  | rx
  | tx
deriving DecidableEq, Repr

/-- The three command formats of R66. -/
inductive Format where
  /-- S: the command word alone. -/
  | simple
  /-- P: LEN16, then LEN16 payload bytes. -/
  | payload
  /-- PC: CAP16, LEN16, then LEN16 payload bytes. -/
  | payloadCap
deriving DecidableEq, Repr

/-- A command with its operands. The payload `DATA` has LEN16 bytes (R68), so LEN16 is its length. -/
inductive Instr where
  /-- RX_RESET (42_rx_decoder.md R120). -/
  | rxReset
  /-- RX_FEED (42_rx_decoder.md R121): `b` is the received byte, `IMM8` (30_encoding.md R70). -/
  | rxFeed (b : Byte)
  /-- TX_PACKET (43_tx_encoder.md R160). -/
  | txPacket (data : Bytes)
  /-- CRC16 (40_crc16.md R91). -/
  | crc16 (data : Bytes)
  /-- B64_ENCODE (41_base64.md R106): `pad` is `IMM8[0]` (30_encoding.md R71), `cap` is CAP16. -/
  | b64Encode (pad : Bool) (cap : U16) (data : Bytes)
  /-- B64_DECODE (41_base64.md R110). -/
  | b64Decode (cap : U16) (data : Bytes)
  /-- B64_DECLEN (41_base64.md R114). -/
  | b64DecLen (data : Bytes)
deriving DecidableEq, Repr

end Sys2Proof
end

