-- ==== Sys2Proof/Machine/State.lean ====
section
/-!
DEFINITION. The state of one copy of the block (10_state.md), as plain data: the Receive Context, the ghost state, the
two command ports, the TX working set, the sink port, and the environment's script; then what a step can stop with, and
the state after reset (R37).
-/

namespace Sys2Proof.Machine

/-- A buffer's contents: (index, byte) cells with strictly rising indices. An index that is not listed holds NO VALUE
(R27, R28: a model may let the other bytes hold no value; DESIGN CHOICE, safe: log entry 6). -/
abbrev Memory := List Host.Cell

/-- The two buffers of the Receive Context (20_memory.md R40). -/
inductive BufferId where
  /-- `raw_buf`, RAW_CAP bytes (10_state.md R23). -/
  | raw
  /-- `enc_buf`, ENC_CAP bytes (10_state.md R24). -/
  | enc
deriving DecidableEq, Repr

/-- The ghost events of 60_exceptions.md R193: which branch an RX command took. Not visible at any port. -/
inductive GhostEvent where
  | reset
  | accum
  | notFrame
  | orphan
  | badB64
  | cap
  | short
  | more
  | overlen
  | crc
  | complete
deriving DecidableEq, Repr

/-- The response statuses of 60_exceptions.md R190. -/
inductive Status where
  /-- `ST_OK`. -/
  | ok
  /-- `ST_PACKET`. -/
  | packet
  /-- `ST_ERR_B64`. -/
  | errB64
  /-- `ST_ERR_CAP`. -/
  | errCap
  /-- `ST_ERR_SEND`. -/
  | errSend
  /-- `ST_ERR_ILLEGAL`. -/
  | errIllegal
deriving DecidableEq, Repr

/-- The payload shapes of a response (30_encoding.md R74): none, VAL16, `LEN16` and as many bytes, or the sink's error
value. -/
inductive Payload where
  | empty
  | val16 (v : U16)
  | data (bs : Bytes)
  | sinkErr (e : SinkErr)
deriving DecidableEq, Repr

/-- A response (R74): what `respond(st, payload)` gives (00_scope.md R16). -/
structure Response where
  status : Status
  payload : Payload
deriving DecidableEq, Repr

/-- Where the TX engine stands in the `Send` loop of TX_PACKET (43_tx_encoder.md R161, R174, R175). -/
inductive TxPhase where
  /-- The next step offers frame `next`, or gives the response where every frame was sent. -/
  | offering
  /-- Frame `next` is offered and the sink has not answered (70_reset_and_hazards.md R219). -/
  | waiting
  /-- The `Send` of frame `next` answered `Err(e)`; the next step gives the response (R175). -/
  | failed (e : SinkErr)
deriving DecidableEq, Repr

/-- The working set of one TX_PACKET (10_state.md R31). -/
structure TxWork where
  /-- `n`, the packet length. -/
  len : U16
  /-- `crc`, the CRC of the body (43_tx_encoder.md R162). -/
  crc : U16
  /-- `S`, the decoded stream (R163). -/
  stream : Bytes
  /-- The group indices of each frame, in order (R161, R169). -/
  frames : List (List Nat)
  /-- The index of the next frame to send. -/
  next : Nat
  phase : TxPhase
deriving DecidableEq, Repr

/-- A move of the environment or a turn of an engine (10_state.md R20; log entry 8). -/
inductive Move where
  /-- The RX engine takes a step. -/
  | rxTurn
  /-- The TX engine takes a step. -/
  | txTurn
  /-- The environment puts command bytes on the RX port, in any chunks (30_encoding.md R67). -/
  | issueRx (bs : Bytes)
  /-- The environment puts command bytes on the TX port. -/
  | issueTx (bs : Bytes)
  /-- The environment takes the RX port's last response (70_reset_and_hazards.md R216). -/
  | takeRx
  /-- The sink's next answer (43_tx_encoder.md R174). -/
  | answer (a : SendAnswer)
  /-- Power-on reset (70_reset_and_hazards.md R210, R211). -/
  | powerOn
deriving DecidableEq, Repr

/-- One copy of the block with its environment (10_state.md R21, R33). `encoded_offset` is hardwired 0 (R25) and has no
field: it is read through `State.encodedOffset`. -/
structure State where
  /-- The build parameters: no command writes them (R36; log entry 1). -/
  cfg : BuildParams
  /-- `raw_offset` (R22): 17 bits wide; R29 bounds it by RAW_CAP (log entry 5). -/
  rawOffset : Nat
  /-- `raw_buf` (R23). -/
  rawBuf : Memory
  /-- `encoded_len` (R24): R29 bounds it by ENC_CAP (log entry 5). -/
  encodedLen : Nat
  /-- `enc_buf`, the scratch window's buffer (R24). -/
  encBuf : Memory
  /-- `declared_body_len` (R26). -/
  declaredBodyLen : U16
  /-- Ghost: the outcome of the last RX command (60_exceptions.md R193). -/
  ev : GhostEvent
  /-- Ghost: the last RX_FEED began with the overflow reset (R193). -/
  ovf : Bool
  /-- RX command port: bytes issued and not yet taken (70_reset_and_hazards.md R217). -/
  rxIn : Bytes
  /-- RX command port: the last response has not been taken, so no command is accepted (R216; log entry 9). -/
  rxUntaken : Bool
  /-- The responses the RX port has given, oldest first (60_exceptions.md R209). -/
  rxResponses : List Response
  /-- TX command port: bytes issued and not yet taken (R217). -/
  txIn : Bytes
  /-- The TX_PACKET in progress and its working set, if there is one (R31). -/
  txWork : Option TxWork
  /-- The responses the TX port has given, oldest first (R209). -/
  txResponses : List Response
  /-- TX sink port: the frames offered, oldest first (R33, R209). -/
  sinkOffers : List Bytes
  /-- TX sink port: the sink's answers not yet received; none listed means the sink has not answered (R174, R219). -/
  sinkAnswers : List SendAnswer
  /-- The coming moves (log entry 8). -/
  script : List Move
deriving DecidableEq, Repr

/-- `encoded_offset` reads as 0 and no rule writes it (R25). -/
def State.encodedOffset (_ : State) : Nat := 0

/-- What stops a step. The block itself has no fault (60_exceptions.md R196); both of these are refusals that 20_memory.md
R41 lets a model make, and no state that meets the invariant of Safety.lean reaches them. -/
inductive Fault where
  /-- Raised by RX_FEED where it reads a buffer byte that nothing has written. R27 and R28 say it never does. Safe: the
  model stops where the spec gives no value. -/
  | unwrittenByte (buf : BufferId)
  /-- Raised by RX_FEED where a write would go beyond the buffer's capacity. R41 says no rule does. Safe: the model stops
  where the spec has no storage. -/
  | outOfBuffer (buf : BufferId)
deriving DecidableEq, Repr

/-- Why an instruction has no meaning. -/
inductive Refusal where
  /-- Raised by an arm of `exec` for an instruction that has no meaning yet. No arm raises it. Safe: the model stops. -/
  | notModelled (mnemonic : String)
deriving DecidableEq, Repr

/-- The three outcomes of a step of this machine. -/
abbrev Result := Host.Outcome State Fault Refusal

/-- The state right after reset (R37, 70_reset_and_hazards.md R210): no packet in progress, an empty scratch window,
`declared_body_len` 0, buffer contents unspecified, ports idle. The build parameters are the reference values (DESIGN
CHOICE, log entry 1); the ghosts are as R213 allows (log entry 7); nothing is issued and no trace is recorded (log entries
3, 8, 13, 14). -/
def State.reset : State where
  cfg := BuildParams.reference
  rawOffset := 0
  rawBuf := []
  encodedLen := 0
  encBuf := []
  declaredBodyLen := 0#16
  ev := .reset
  ovf := false
  rxIn := []
  rxUntaken := false
  rxResponses := []
  txIn := []
  txWork := none
  txResponses := []
  sinkOffers := []
  sinkAnswers := []
  script := []

end Sys2Proof.Machine
end

