-- ==== Sys2Proof/Machine/Flags.lean ====
section
/-!
DEFINITION. The block has no flags (10_state.md R35): every outcome of a command is in its response. This file holds the
response statuses' codes (60_exceptions.md R190), the codes of the ghost events (R193), and the bytes of a response
(30_encoding.md R67, R74).
-/

namespace Sys2Proof.Machine

/-- The 8-bit code of a status (R190). -/
def Status.code : Status → Byte
  | .ok => 0x00#8
  | .packet => 0x01#8
  | .errB64 => 0x10#8
  | .errCap => 0x11#8
  | .errSend => 0x20#8
  | .errIllegal => 0x7F#8

/-- An error status: `0x10` and above (R191). -/
def Status.isError (st : Status) : Bool := decide (0x10 ≤ st.code.toNat)

/-- The code of a ghost event, fixed so that traces compare (R193). -/
def GhostEvent.code : GhostEvent → Nat
  | .reset => 0
  | .accum => 1
  | .notFrame => 2
  | .orphan => 3
  | .badB64 => 4
  | .cap => 5
  | .short => 6
  | .more => 7
  | .overlen => 8
  | .crc => 9
  | .complete => 10

/-- The bytes of a payload (R67, R74). `SinkErr` is an OPEN type with no byte form (log entry 2), so an error value has
none. -/
def Payload.wire : Payload → Option Bytes
  | .empty => some []
  | .val16 v => some (beBytes v)
  | .data bs => some (beBytes (u16OfNat bs.length) ++ bs)
  | .sinkErr _ => none

/-- The bytes of a response: the status, then the payload (R74). -/
def Response.wire (r : Response) : Option Bytes :=
  match r.payload.wire with
  | none => none
  | some bs => some (r.status.code :: bs)

/-- `ST_OK` with no payload. -/
def Response.okNone : Response := { status := .ok, payload := .empty }

/-- `ST_ERR_ILLEGAL` with no payload (R197). -/
def Response.illegal : Response := { status := .errIllegal, payload := .empty }

end Sys2Proof.Machine
end

