-- ==== Sys2Proof/Machine/Memory.lean ====
section
/-!
DEFINITION. Reading and writing a buffer's cells. An unlisted index reads as no value (log entry 6).
-/

namespace Sys2Proof.Machine

/-- Every index of the list is above `a`. -/
def Memory.above (a : Nat) : Memory → Bool
  | [] => true
  | c :: m => decide (a < c.1) && Memory.above a m

/-- The canonical form: strictly rising indices. (An unlisted index has no value, so no cell can equal it.) -/
def Memory.wf : Memory → Bool
  | [] => true
  | c :: m => Memory.above c.1 m && Memory.wf m

/-- Every index of the list is below `cap`. -/
def Memory.within (cap : Nat) : Memory → Bool
  | [] => true
  | c :: m => decide (c.1 < cap) && Memory.within cap m

/-- The byte at index `a`, or no value. -/
def Memory.read? (m : Memory) (a : Nat) : Option Byte :=
  match m with
  | [] => none
  | c :: m => if c.1 = a then some c.2 else Memory.read? m a

/-- `buf[a] <- b`, in canonical form. -/
def Memory.write (m : Memory) (a : Nat) (b : Byte) : Memory :=
  match m with
  | [] => [(a, b)]
  | c :: m =>
    if c.1 < a then c :: Memory.write m a b
    else if c.1 = a then (a, b) :: m
    else (a, b) :: c :: m

/-- `BufWrite(buf, a, bs)` (00_scope.md R15): `buf[a+k] <- bs[k]` for every `k`. -/
def Memory.writeBytes (m : Memory) (a : Nat) : Bytes → Memory
  | [] => m
  | b :: bs => Memory.writeBytes (m.write a b) (a + 1) bs

/-- `BufRead(buf, a, n)` (R15): the bytes `buf[a..a+n)`, or nothing where one of them has no value. -/
def Memory.readBytes (m : Memory) (a : Nat) : Nat → Option Bytes
  | 0 => some []
  | n + 1 =>
    match m.read? a with
    | none => none
    | some b =>
      match Memory.readBytes m (a + 1) n with
      | none => none
      | some bs => some (b :: bs)

end Sys2Proof.Machine
end

