-- ==== Sys2Proof/Machine/Ops.lean ====
section
/-!
DEFINITION. The operations the commands share: `respond` on either port, access to the two buffers, the answer to an
illegal command word, and power-on reset.

The block takes no exception and returns from none (60_exceptions.md R196, R199): what stands in their place is the answer
to an illegal word (R197), `State.answerIllegal`.
-/

namespace Sys2Proof.Machine

/-- `respond(st, payload)` on the RX port (00_scope.md R16). Until the environment takes the response the port accepts no
command (70_reset_and_hazards.md R216; log entry 9). -/
def State.respondRx (s : State) (r : Response) : State :=
  { s with rxResponses := s.rxResponses ++ [r], rxUntaken := true }

/-- `respond(st, payload)` on the TX port (R16). -/
def State.respondTx (s : State) (r : Response) : State :=
  { s with txResponses := s.txResponses ++ [r] }

/-- `ghost ev <- E`, then the response (R16): how every RX command ends. -/
def State.finishRx (s : State) (e : GhostEvent) (r : Response) : State :=
  { s with ev := e }.respondRx r

/-- The answer to an illegal command word on a port: `ST_ERR_ILLEGAL`, no state changed (60_exceptions.md R197). -/
def State.answerIllegal (s : State) (p : Port) : State :=
  match p with
  | .rx => s.respondRx Response.illegal
  | .tx => s.respondTx Response.illegal

/-- `BufRead` of a buffer (00_scope.md R15); a byte that nothing has written stops the model (log entry 6). -/
def bufRead (buf : BufferId) (m : Memory) (a n : Nat) : Except Fault Bytes :=
  match m.readBytes a n with
  | none => .error (.unwrittenByte buf)
  | some bs => .ok bs

/-- `BufWrite` of a buffer of `cap` bytes (R15); a write beyond the capacity stops the model (20_memory.md R41). -/
def bufWrite (buf : BufferId) (cap : Nat) (m : Memory) (a : Nat) (bs : Bytes) : Except Fault Memory :=
  if a + bs.length ≤ cap then .ok (m.writeBytes a bs) else .error (.outOfBuffer buf)

/-- The Receive Context registers at their reset values (10_state.md R37), buffer contents left as they are
(42_rx_decoder.md R120). -/
def State.clearContext (s : State) : State :=
  { s with rawOffset := 0, encodedLen := 0, declaredBodyLen := 0#16 }

/-- Power-on reset (70_reset_and_hazards.md R210, R211): the hardware state takes its reset values and a command in
progress is abandoned with no response. What the environment has seen (the responses given, the frames offered) and what
it has yet to do (the sink's answers, the script) are the environment's and stay; the build parameters are fixed. Bytes on
a port that no command has taken are dropped with it: the ports are idle (DEDUCED, unsafe: log entry 11). -/
def State.powerOn (s : State) : State :=
  { State.reset with
    cfg := s.cfg
    rxResponses := s.rxResponses
    txResponses := s.txResponses
    sinkOffers := s.sinkOffers
    sinkAnswers := s.sinkAnswers
    script := s.script }

end Sys2Proof.Machine
end

