-- ==== Sys2Proof/Machine/Base64.lean ====
section
/-!
DEFINITION. The Base64 codec (41_base64.md): the alphabet (R96), the encoder (R97 to R99), the strict decoder (R100 to
R103), and the three Base64 commands (R106, R110, R114).
-/

namespace Sys2Proof.Machine

/-- The pad character `=` (R96). -/
def b64Pad : Byte := 0x3D#8

/-- `chr(v)`, the alphabet character of value `v < 64` (R96). -/
def b64Chr (v : Nat) : Byte :=
  if v < 26 then BitVec.ofNat 8 (0x41 + v)
  else if v < 52 then BitVec.ofNat 8 (0x61 + (v - 26))
  else if v < 62 then BitVec.ofNat 8 (0x30 + (v - 52))
  else if v = 62 then 0x2B#8
  else 0x2F#8

/-- `val(c)`, the value of an alphabet character; nothing for every other byte (R96). -/
def b64Val (c : Byte) : Option Nat :=
  let n := c.toNat
  if 0x41 ≤ n ∧ n ≤ 0x5A then some (n - 0x41)
  else if 0x61 ≤ n ∧ n ≤ 0x7A then some (n - 0x61 + 26)
  else if 0x30 ≤ n ∧ n ≤ 0x39 then some (n - 0x30 + 52)
  else if n = 0x2B then some 62
  else if n = 0x2F then some 63
  else none

/-- The 24-bit value of three bytes, the first most significant (R97). -/
def be24 (b0 b1 b2 : Byte) : Nat := b0.toNat * 2 ^ 16 + b1.toNat * 2 ^ 8 + b2.toNat

/-- The four characters of a 24-bit value (R97). -/
def b64Chars (w : Nat) : Bytes :=
  [b64Chr (bitField w 23 18), b64Chr (bitField w 17 12), b64Chr (bitField w 11 6), b64Chr (bitField w 5 0)]

/-- The padding of a partial group (R98). -/
def b64Padding (pad : Bool) (n : Nat) : Bytes := if pad then List.replicate n b64Pad else []

/-- `B64Enc(d, pad)` (R99). -/
def b64Enc (pad : Bool) : Bytes → Bytes
  | [] => []
  | [b0] => (b64Chars (be24 b0 0#8 0#8)).take 2 ++ b64Padding pad 2
  | [b0, b1] => (b64Chars (be24 b0 b1 0#8)).take 3 ++ b64Padding pad 1
  | b0 :: b1 :: b2 :: rest => b64Chars (be24 b0 b1 b2) ++ b64Enc pad rest

/-- A byte of a 24-bit value, by its bit field (R100). -/
def byteField (w hi lo : Nat) : Byte := BitVec.ofNat 8 (bitField w hi lo)

/-- The last two characters of a group whose first two have the values `v0` and `v1` (R100 to R102): the group's bytes, or
nothing where the text FAILs. -/
def b64DecTail (last : Bool) (v0 v1 : Nat) (c2 c3 : Byte) : Option Bytes :=
  match b64Val c2, b64Val c3 with
  | some v2, some v3 =>
    let w := v0 * 2 ^ 18 + v1 * 2 ^ 12 + v2 * 2 ^ 6 + v3
    some [byteField w 23 16, byteField w 15 8, byteField w 7 0]
  | some v2, none =>
    if last = true ∧ c3 = b64Pad then
      if bitField v2 1 0 ≠ 0 then none
      else
        let w := v0 * 2 ^ 18 + v1 * 2 ^ 12 + v2 * 2 ^ 6
        some [byteField w 23 16, byteField w 15 8]
    else none
  | none, _ =>
    if last = true ∧ c2 = b64Pad ∧ c3 = b64Pad then
      if bitField v1 3 0 ≠ 0 then none
      else
        let w := v0 * 2 ^ 18 + v1 * 2 ^ 12
        some [byteField w 23 16]
    else none

/-- One group of four characters (R100); `last` says that no group follows. -/
def b64DecGroup (last : Bool) (c0 c1 c2 c3 : Byte) : Option Bytes :=
  match b64Val c0, b64Val c1 with
  | some v0, some v1 => b64DecTail last v0 v1 c2 c3
  | _, _ => none

/-- `B64Dec(t)` (R100): the decoded bytes, or nothing for FAIL. A text whose length is not a multiple of 4 FAILs. -/
def b64Dec : Bytes → Option Bytes
  | [] => some []
  | c0 :: c1 :: c2 :: c3 :: rest =>
    match b64DecGroup rest.isEmpty c0 c1 c2 c3 with
    | none => none
    | some g =>
      match b64Dec rest with
      | none => none
      | some out => some (g ++ out)
  | _ => none

/-- `DecLen(t)` (R104), which validates as `B64Dec` does. -/
def decLen (t : Bytes) : Option Nat := (b64Dec t).map List.length

/-! ### The commands: pure, answered on the TX port -/

/-- The response of B64_ENCODE (R106, R108): VAL16 saturates at 65535. -/
def b64EncodeResponse (pad : Bool) (cap : U16) (data : Bytes) : Response :=
  let t := b64Enc pad data
  if cap.toNat < t.length then { status := .errCap, payload := .val16 (u16OfNat (min t.length 65535)) }
  else { status := .ok, payload := .data t }

/-- The response of B64_DECODE (R110, R112, R113): validity before capacity. -/
def b64DecodeResponse (cap : U16) (data : Bytes) : Response :=
  match b64Dec data with
  | none => { status := .errB64, payload := .empty }
  | some r =>
    if cap.toNat < r.length then { status := .errCap, payload := .val16 (u16OfNat r.length) }
    else { status := .ok, payload := .data r }

/-- The response of B64_DECLEN (R114). -/
def b64DecLenResponse (data : Bytes) : Response :=
  match decLen data with
  | none => { status := .errB64, payload := .empty }
  | some n => { status := .ok, payload := .val16 (u16OfNat n) }

/-- B64_ENCODE (R106). -/
def execB64Encode (pad : Bool) (cap : U16) (data : Bytes) (s : State) : Result :=
  .next (s.respondTx (b64EncodeResponse pad cap data))

/-- B64_DECODE (R110). -/
def execB64Decode (cap : U16) (data : Bytes) (s : State) : Result :=
  .next (s.respondTx (b64DecodeResponse cap data))

/-- B64_DECLEN (R114). -/
def execB64DecLen (data : Bytes) (s : State) : Result :=
  .next (s.respondTx (b64DecLenResponse data))

end Sys2Proof.Machine
end

