-- ==== Sys2Proof/Machine/Crc.lean ====
section
/-!
DEFINITION. The CRC-16 generator (40_crc16.md): the function of R86 and the CRC16 command.
-/

namespace Sys2Proof.Machine

/-- One shift of the CRC register (R86): left by one bit, XOR `0x1021` where bit 15 was 1. -/
def crcShift (crc : U16) : U16 :=
  if crc.getLsbD 15 then (crc <<< 1) ^^^ 0x1021#16 else crc <<< 1

/-- `n` shifts. -/
def crcShifts : Nat → U16 → U16
  | 0, crc => crc
  | n + 1, crc => crcShifts n (crcShift crc)

/-- One byte enters at bits 15..8, then 8 shifts (R86). -/
def crcByte (crc : U16) (b : Byte) : U16 := crcShifts 8 (crc ^^^ (b.setWidth 16 <<< 8))

/-- The CRC register after the bytes of `d`, in order, from the value `crc`. -/
def crcFrom (crc : U16) : Bytes → U16
  | [] => crc
  | b :: d => crcFrom (crcByte crc b) d

/-- `CRC16(d)` (R86): initial value 0, no reflection, no final XOR. -/
def crc16 (d : Bytes) : U16 := crcFrom 0x0000#16 d

/-- CRC16 (R91): always `ST_OK` with VAL16. -/
def execCrc16 (data : Bytes) (s : State) : Result :=
  .next (s.respondTx { status := .ok, payload := .val16 (crc16 data) })

end Sys2Proof.Machine
end

