-- ==== Sys2Proof/Machine/Rx.lean ====
section
/-!
DEFINITION. The RX engine's two commands (42_rx_decoder.md): RX_RESET (R120) and RX_FEED (R121, R122), the latter in the
order of its pseudocode: scratch overflow (R123), append (R124), end of line (R125 to R127), what kind of line it is (R128
to R136), commit (R134 to R136), and the completion tests (R137 to R140).
-/

namespace Sys2Proof.Machine

/-- RX_RESET (R120). The ghost `ovf` is false after it (60_exceptions.md R193). -/
def execRxReset (s : State) : Result :=
  .next ({ s.clearContext with ovf := false }.finishRx .reset Response.okNone)

/-- The newline byte, the only line terminator (30_encoding.md R56, R126). -/
def newline : Byte := 0x0A#8

/-- The packet-start tag (30_encoding.md R57). -/
def packetStartTag : U16 := 0x0609#16

/-- The continuation tag (R57). -/
def continuationTag : U16 := 0x0414#16

/-- Scratch overflow (R123): a full window is emptied and the packet in progress dropped before the byte is stored. -/
def scratchOverflow (s : State) : State :=
  if s.encodedLen = s.cfg.encCap then { s with rawOffset := 0, encodedLen := 0, ovf := true }
  else { s with ovf := false }

/-- Append a byte to the scratch window (R124), at `enc_buf[encoded_offset + encoded_len]`. -/
def scratchAppend (b : Byte) (s : State) : Except Fault State :=
  match bufWrite .enc s.cfg.encCap s.encBuf (s.encodedOffset + s.encodedLen) [b] with
  | .error f => .error f
  | .ok m => .ok { s with encBuf := m, encodedLen := s.encodedLen + 1 }

/-- What a line turns out to be (R128 to R136). -/
inductive LineVerdict where
  /-- The line is discarded: only the scratch window changes (R130, R131, R133, R134, R136). -/
  | discard (e : GhostEvent)
  /-- A frame that is accepted: whether it starts a packet, where its bytes go, and the bytes. -/
  | accept (start : Bool) (base : Nat) (r : Bytes)
deriving DecidableEq, Repr

/-- The checks on a frame's decoded bytes (R134, R136). -/
def frameVerdict (rawCap : Nat) (start : Bool) (base : Nat) (r : Bytes) : LineVerdict :=
  if rawCap < base + r.length then .discard .cap
  else if start = true ∧ r.length < 2 then .discard .short
  else .accept start base r

/-- The checks on a line, in the order of R122: length (R128), tag (R129), orphan (R131), Base64 (R133), capacity (R134),
short packet-start (R136). A packet-start frame's bytes go to offset 0 (R132). -/
def lineVerdict (rawCap rawOffset : Nat) (line : Bytes) : LineVerdict :=
  match line with
  | h :: l :: text =>
    let tag := be16 h l
    if tag ≠ packetStartTag ∧ tag ≠ continuationTag then .discard .notFrame
    else if tag = continuationTag ∧ rawOffset = 0 then .discard .orphan
    else
      match b64Dec text with
      | none => .discard .badB64
      | some r =>
        let start := decide (tag = packetStartTag)
        frameVerdict rawCap start (if start then 0 else rawOffset) r
  | _ => .discard .notFrame

/-- The declared body length after a frame is committed: the first two bytes of a packet-start frame (R136). -/
def declaredAfter (start : Bool) (r : Bytes) (old : U16) : U16 :=
  match start, r with
  | true, h :: l :: _ => be16 h l
  | _, _ => old

/-- Commit an accepted frame (R134 to R136). -/
def commitFrame (start : Bool) (base : Nat) (r : Bytes) (s : State) : Except Fault State :=
  match bufWrite .raw s.cfg.rawCap s.rawBuf base r with
  | .error f => .error f
  | .ok m =>
    .ok { s with
      rawBuf := m
      rawOffset := base + r.length
      declaredBodyLen := declaredAfter start r s.declaredBodyLen }

/-- The expected decoded total, `declared_body_len + 4` (R137), in 17 bits: it never wraps. -/
def State.expectedTotal (s : State) : Nat := s.declaredBodyLen.toNat + 4

/-- The packet in progress is dropped or delivered: `raw_offset <- 0` (R138, R139, R140). -/
def State.endPacket (s : State) : State := { s with rawOffset := 0 }

/-- The completion test (R137), over-length (R138), trailer check (R139) and completion (R140). -/
def completePacket (s : State) : Result :=
  if s.rawOffset < s.expectedTotal then .next (s.finishRx .more Response.okNone)
  else if s.expectedTotal < s.rawOffset then .next (s.endPacket.finishRx .overlen Response.okNone)
  else
    match bufRead .raw s.rawBuf 2 (s.rawOffset - 2) with
    | .error f => .fault f
    | .ok span =>
      if crc16 span ≠ 0#16 then .next (s.endPacket.finishRx .crc Response.okNone)
      else
        match bufRead .raw s.rawBuf 2 (s.rawOffset - 4) with
        | .error f => .fault f
        | .ok body => .next (s.endPacket.finishRx .complete { status := .packet, payload := .data body })

/-- Evaluate a line whose scratch window has been emptied (R122 from R128 on). -/
def evalLine (line : Bytes) (s : State) : Result :=
  match lineVerdict s.cfg.rawCap s.rawOffset line with
  | .discard e => .next (s.finishRx e Response.okNone)
  | .accept start base r =>
    match commitFrame start base r s with
    | .error f => .fault f
    | .ok s' => completePacket s'

/-- The end of a line (R126, R127): the line is the window without its newline, and the window is emptied. -/
def endLine (s : State) : Result :=
  match bufRead .enc s.encBuf s.encodedOffset (s.encodedLen - 1) with
  | .error f => .fault f
  | .ok line => evalLine line { s with encodedLen := 0 }

/-- RX_FEED (R121, R122). -/
def execRxFeed (b : Byte) (s : State) : Result :=
  match scratchAppend b (scratchOverflow s) with
  | .error f => .fault f
  | .ok s' => if b ≠ newline then .next (s'.finishRx .accum Response.okNone) else endLine s'

end Sys2Proof.Machine
end

