-- ==== Sys2Proof/Machine/Tx.lean ====
section
/-!
DEFINITION. The TX encoder (43_tx_encoder.md): the decoded stream and its groups (R163, R166), the frame split (R169), the
bytes of a frame (R172), the `Send` loop as steps (R174 to R176; 70_reset_and_hazards.md R224), and TX_PACKET (R160).
-/

namespace Sys2Proof.Machine

/-- The decoded stream `S = BE16(n) ++ DATA ++ BE16(crc)` (30_encoding.md R59, R163). -/
def decodedStream (data : Bytes) : Bytes :=
  beBytes (u16OfNat data.length) ++ data ++ beBytes (crc16 data)

/-- `G = ceil((n + 4) / 3)`, the number of groups (R161). -/
def groupCount (n : Nat) : Nat := (n + 4 + 2) / 3

/-- `T = floor((n + 2) / 3)`, the first CRC-bearing group (R168). -/
def firstCrcGroup (n : Nat) : Nat := (n + 2) / 3

/-- `grp(i) = S[3i .. min(3i + 3, |S|))` (R161). -/
def group (stream : Bytes) (i : Nat) : Bytes := (stream.drop (3 * i)).take 3

/-- Close the current frame before group `i`: it is full, or the CRC-bearing groups would not fit in it (R169). -/
abbrev closesFrame (k g t : Nat) (cur : List Nat) (i : Nat) : Prop :=
  cur.length = k ∨ (i = t ∧ k < cur.length + (g - t))

/-- The loop of R161 over groups `i .. i + m - 1`: `cur` is the open frame. -/
def splitLoop (k g t : Nat) : Nat → Nat → List Nat → List (List Nat)
  | 0, _, cur => [cur]
  | m + 1, i, cur =>
    if closesFrame k g t cur i then cur :: splitLoop k g t m (i + 1) [i]
    else splitLoop k g t m (i + 1) (cur ++ [i])

/-- The groups of each frame of a body of `n` bytes, at most `k` a frame (R161, R169): group 0 opens frame 0. -/
def splitGroups (k n : Nat) : List (List Nat) :=
  splitLoop k (groupCount n) (firstCrcGroup n) (groupCount n - 1) 1 [0]

/-- The tag of frame `j` (R164, R165). -/
def frameTag (j : Nat) : Bytes := beBytes (if j = 0 then packetStartTag else continuationTag)

/-- The Base64 text of a frame's groups, each encoded on its own with padding (R166). -/
def frameText (stream : Bytes) (groups : List Nat) : Bytes := groups.flatMap fun i => b64Enc true (group stream i)

/-- The bytes of frame `j`: tag, text, newline (R172). -/
def frameBytes (stream : Bytes) (j : Nat) (groups : List Nat) : Bytes :=
  frameTag j ++ frameText stream groups ++ [newline]

/-- The frames of a packet from frame `j` on. -/
def framesFrom (stream : Bytes) : Nat → List (List Nat) → List Bytes
  | _, [] => []
  | j, gs :: rest => frameBytes stream j gs :: framesFrom stream (j + 1) rest

/-- The frames TX_PACKET sends for a body when every `Send` answers `Ok` (R161). -/
def packetFrames (k : Nat) (data : Bytes) : List Bytes :=
  framesFrom (decodedStream data) 0 (splitGroups k data.length)

/-- The working set at the start of TX_PACKET (R161, R162; 10_state.md R31). -/
def txLoad (k : Nat) (data : Bytes) : TxWork where
  len := u16OfNat data.length
  crc := crc16 data
  stream := decodedStream data
  frames := splitGroups k data.length
  next := 0
  phase := .offering

/-- The frame the working set sends next; nothing where every frame was sent. -/
def TxWork.frame (w : TxWork) : Option Bytes :=
  match w.frames[w.next]? with
  | none => none
  | some gs => some (frameBytes w.stream w.next gs)

/-- The working set after the sink's answer to frame `next` (R174, R175). -/
def TxWork.answered (w : TxWork) (a : SendAnswer) : TxWork :=
  match a with
  | .ok => { w with next := w.next + 1, phase := .offering }
  | .err e => { w with phase := .failed e }

/-- The engine waits for the sink's answer to the frame it has offered, without limit (70_reset_and_hazards.md R219). -/
def State.receiveAnswer (s : State) (w : TxWork) : State :=
  match s.sinkAnswers with
  | [] => { s with txWork := some { w with phase := .waiting } }
  | a :: rest => { s with txWork := some (w.answered a), sinkAnswers := rest }

/-- TX_PACKET ends with a response (R175, R176); the working set is gone (10_state.md R31). -/
def State.endTxPacket (s : State) (r : Response) : State := { s with txWork := none }.respondTx r

/-- One step of a TX_PACKET in progress (R224): the `Send` of one frame, or the response. -/
def State.txAdvance (s : State) (w : TxWork) : State :=
  match w.phase with
  | .failed e => s.endTxPacket { status := .errSend, payload := .sinkErr e }
  | .waiting => s.receiveAnswer w
  | .offering =>
    match w.frame with
    | none => s.endTxPacket Response.okNone
    | some f => { s with sinkOffers := s.sinkOffers ++ [f] }.receiveAnswer w

/-- TX_PACKET (R160, R161): the working set is computed and the first frame's `Send` step is made. The further `Send`
steps and the step that gives the response are the TX engine's next turns (R224; log entry 12). -/
def execTxPacket (data : Bytes) (s : State) : Result :=
  .next (s.txAdvance (txLoad s.cfg.frameGroups data))

end Sys2Proof.Machine
end

