-- ==== Sys2Proof/Machine/Dispatch.lean ====
section
/-!
DEFINITION. One arm per command, each one call of its meaning.
-/

namespace Sys2Proof.Machine

def exec (i : Instr) (s : State) : Host.Outcome State Fault Refusal :=
  match i with
  | .rxReset => Sys2Proof.Machine.execRxReset s
  | .rxFeed b => Sys2Proof.Machine.execRxFeed b s
  | .txPacket data => Sys2Proof.Machine.execTxPacket data s
  | .crc16 data => Sys2Proof.Machine.execCrc16 data s
  | .b64Encode pad cap data => Sys2Proof.Machine.execB64Encode pad cap data s
  | .b64Decode cap data => Sys2Proof.Machine.execB64Decode cap data s
  | .b64DecLen data => Sys2Proof.Machine.execB64DecLen data s

end Sys2Proof.Machine
end

