-- ==== Sys2Proof/Machine/Operands.lean ====
section
/-!
DEFINITION. The operand forms of the commands (30_encoding.md R66, R68): the 16-bit fields CAP16 and LEN16 and the
payload DATA, read from the bytes that follow a command word, and the length of each format (R76).
-/

namespace Sys2Proof.Machine

/-- Read a big-endian 16-bit field (R67): the value and the bytes after it, or nothing where bytes are still to come. -/
def takeField : Bytes → Option (U16 × Bytes)
  | h :: l :: rest => some (be16 h l, rest)
  | _ => none

/-- Read `LEN16` and then `LEN16` payload bytes (R68). -/
def takePayload (bs : Bytes) : Option (Bytes × Bytes) :=
  match takeField bs with
  | none => none
  | some (n, rest) => if n.toNat ≤ rest.length then some (rest.take n.toNat, rest.drop n.toNat) else none

/-- Read `CAP16`, `LEN16` and the payload (format PC of R66). -/
def takeCapPayload (bs : Bytes) : Option (U16 × Bytes × Bytes) :=
  match takeField bs with
  | none => none
  | some (cap, rest) =>
    match takePayload rest with
    | none => none
    | some (data, rest') => some (cap, data, rest')

/-- The bytes of a payload operand: LEN16 high byte first, then the payload (R67, R68). -/
def payloadBytes (data : Bytes) : Bytes := beBytes (u16OfNat data.length) ++ data

/-- The length in bytes of a command of a format with `len` payload bytes (R76). -/
def formatLength : Format → Nat → Nat
  | .simple, _ => 2
  | .payload, len => 2 + 2 + len
  | .payloadCap, len => 2 + 2 + 2 + len

end Sys2Proof.Machine
end

