-- ==== Sys2Proof/Decode.lean ====
section
/-!
DEFINITION. The command decoder of 30_encoding.md R65 to R76, total on any bytes, and after it the encoder written from
the same tables. A command word that is not a command of its port is rejected by name and has no operand fields (R76).
-/

namespace Sys2Proof

open Machine

/-- What a command word asks for (R69, R75), before its operands are read. -/
inductive Head where
  | rxReset
  | rxFeed (b : Byte)
  | txPacket
  | crc16
  | b64Encode (pad : Bool)
  | b64Decode
  | b64DecLen
deriving DecidableEq, Repr

/-- Why a command word is illegal (R72). Every one of them is answered `ST_ERR_ILLEGAL` (60_exceptions.md R197). -/
inductive Reject where
  /-- An `OP` value the opcode map does not list (R73). -/
  | reservedOpcode (op : Byte)
  /-- A reserved `IMM8` bit is set (R72). -/
  | reservedImm (op imm : Byte)
  /-- A legal command word on the other port (R75, last line). -/
  | wrongPort (h : Head)
deriving DecidableEq, Repr

/-- The port that accepts a command (R69). -/
def Head.port : Head → Port
  | .rxReset => .rx
  | .rxFeed _ => .rx
  | .txPacket => .tx
  | .crc16 => .tx
  | .b64Encode _ => .tx
  | .b64Decode => .tx
  | .b64DecLen => .tx

/-- The format of a command's operands (R66, R69). -/
def Head.format : Head → Format
  | .rxReset => .simple
  | .rxFeed _ => .simple
  | .txPacket => .payload
  | .crc16 => .payload
  | .b64Encode _ => .payloadCap
  | .b64Decode => .payloadCap
  | .b64DecLen => .payload

/-- A command whose `IMM8` must be `0x00` (R69, R72). -/
def plainHead (op imm : Byte) (h : Head) : Except Reject Head :=
  if imm = 0x00#8 then .ok h else .error (.reservedImm op imm)

/-- The command a word names, whatever the port: the `case op of` of R75. -/
def decodeWord (w : U16) : Except Reject Head :=
  let op := hi8 w
  let imm := lo8 w
  if op = 0x01#8 then plainHead op imm .rxReset
  else if op = 0x02#8 then .ok (.rxFeed imm)
  else if op = 0x10#8 then plainHead op imm .txPacket
  else if op = 0x20#8 then plainHead op imm .crc16
  else if op = 0x21#8 then
    if imm.extractLsb' 1 7 = 0#7 then .ok (.b64Encode (imm.getLsbD 0)) else .error (.reservedImm op imm)
  else if op = 0x22#8 then plainHead op imm .b64Decode
  else if op = 0x23#8 then plainHead op imm .b64DecLen
  else .error (.reservedOpcode op)

/-- `decode(w, port)` of R75, total on all 65536 words and both ports. -/
def decodeHead (p : Port) (w : U16) : Except Reject Head :=
  match decodeWord w with
  | .error r => .error r
  | .ok h => if h.port = p then .ok h else .error (.wrongPort h)

/-- Read the operands a command word asks for, in the order of R66; nothing where bytes are still to come. -/
def readOperands (h : Head) (bs : Bytes) : Option (Instr × Bytes) :=
  match h with
  | .rxReset => some (.rxReset, bs)
  | .rxFeed b => some (.rxFeed b, bs)
  | .txPacket => (takePayload bs).map fun (d, rest) => (.txPacket d, rest)
  | .crc16 => (takePayload bs).map fun (d, rest) => (.crc16 d, rest)
  | .b64Encode pad => (takeCapPayload bs).map fun (cap, d, rest) => (.b64Encode pad cap d, rest)
  | .b64Decode => (takeCapPayload bs).map fun (cap, d, rest) => (.b64Decode cap d, rest)
  | .b64DecLen => (takePayload bs).map fun (d, rest) => (.b64DecLen d, rest)

/-- What the bytes waiting on a port hold. -/
inductive Decoded where
  /-- A whole command, and the bytes after it. -/
  | command (i : Instr) (rest : Bytes)
  /-- An illegal command word: two bytes taken, no operand fields (R76). -/
  | illegal (why : Reject) (rest : Bytes)
  /-- Not yet a whole command: the port waits for the bytes to come (DEDUCED, safe: log entry 10). -/
  | incomplete
deriving DecidableEq, Repr

/-- The decoder: what stands at the front of the bytes waiting on port `p` (R67, R75, R76). -/
def decode (p : Port) (bs : Bytes) : Decoded :=
  match takeField bs with
  | none => .incomplete
  | some (w, rest) =>
    match decodeHead p w with
    | .error why => .illegal why rest
    | .ok h =>
      match readOperands h rest with
      | none => .incomplete
      | some (i, rest') => .command i rest'

/-! ### The encoder -/

/-- The port a command is issued on (R69). -/
def Instr.port : Instr → Port
  | .rxReset => .rx
  | .rxFeed _ => .rx
  | .txPacket _ => .tx
  | .crc16 _ => .tx
  | .b64Encode _ _ _ => .tx
  | .b64Decode _ _ => .tx
  | .b64DecLen _ => .tx

/-- The bytes of a command (R66, R67, R69, R77), high byte of every 16-bit field first. -/
def encode : Instr → Bytes
  | .rxReset => [0x01#8, 0x00#8]
  | .rxFeed b => [0x02#8, b]
  | .txPacket data => [0x10#8, 0x00#8] ++ payloadBytes data
  | .crc16 data => [0x20#8, 0x00#8] ++ payloadBytes data
  | .b64Encode pad cap data => [0x21#8, if pad then 0x01#8 else 0x00#8] ++ beBytes cap ++ payloadBytes data
  | .b64Decode cap data => [0x22#8, 0x00#8] ++ beBytes cap ++ payloadBytes data
  | .b64DecLen data => [0x23#8, 0x00#8] ++ payloadBytes data

/-- The length of a command in bytes: 2, `2 + 2 + LEN16` or `2 + 2 + 2 + LEN16` by its format (R76). -/
def Instr.byteLength : Instr → Nat
  | .rxReset => formatLength .simple 0
  | .rxFeed _ => formatLength .simple 0
  | .txPacket data => formatLength .payload data.length
  | .crc16 data => formatLength .payload data.length
  | .b64Encode _ _ data => formatLength .payloadCap data.length
  | .b64Decode _ data => formatLength .payloadCap data.length
  | .b64DecLen data => formatLength .payload data.length

/-! ### Words of the opcode table

spec/opcode_table.json numbers the bits of an instruction from bit 0 of its first word; a later word's bits count on. -/

/-- Word `k` of an instruction whose bits are `w`, as the two bytes the port takes, high byte first (R67). -/
def tableWord (w k : Nat) : Bytes := beBytes (BitVec.ofNat 16 (w / 2 ^ (16 * k)))

/-- The first `n` words of an instruction whose bits are `w`. -/
def tableWords (w : Nat) : Nat → Bytes
  | 0 => []
  | n + 1 => tableWords w n ++ tableWord w n

/-- How many bytes the command that begins with `bs` has (R76), where every byte after `bs` is zero. -/
def commandLength (bs : Bytes) : Nat :=
  let field (k : Nat) : U16 := be16 (bs.getD (2 * k) 0#8) (bs.getD (2 * k + 1) 0#8)
  match decodeWord (field 0) with
  | .error _ => 2
  | .ok h =>
    match h.format with
    | .simple => formatLength .simple 0
    | .payload => formatLength .payload (field 1).toNat
    | .payloadCap => formatLength .payloadCap (field 2).toNat

/-- The bytes of the instruction whose lowest `nbits` bits are those of `w` and whose further bits are 0: its words in
order, each high byte first, cut or filled with zero bytes to the length its own fields give it. -/
def tableCommand (nbits w : Nat) : Bytes :=
  let bs := tableWords (w % 2 ^ nbits) ((nbits + 15) / 16)
  let n := commandLength bs
  (bs ++ List.replicate (n - bs.length) 0#8).take n

/-- The port whose engine takes that instruction; the RX port for a word that is legal on neither. -/
def tablePort (nbits w : Nat) : Port :=
  match decodeWord (BitVec.ofNat 16 (w % 2 ^ nbits)) with
  | .ok h => h.port
  | .error _ => .rx

/-- The instruction the decoder reads from an instruction whose bits are `w`, numbered as spec/opcode_table.json numbers
them. -/
def decodeTableWord (nbits w : Nat) : Option Instr :=
  match decode (tablePort nbits w) (tableCommand nbits w) with
  | .command i _ => some i
  | .illegal _ _ => none
  | .incomplete => none

end Sys2Proof
end

