-- ==== Sys2Proof/Machine/Engines.lean ====
section
/-!
DEFINITION. The two engines' turns, the environment's moves, and the choice of the next move. `run` is the meaning of a
decoded command: Step.lean gives `exec` for it, so that everything a test could show wrong stands in this file.
-/

namespace Sys2Proof.Machine

/-- The bytes waiting on a port. -/
def State.waiting (s : State) (p : Port) : Bytes :=
  match p with
  | .rx => s.rxIn
  | .tx => s.txIn

/-- Take bytes from a port: `rest` is what is left. -/
def State.leave (s : State) (p : Port) (rest : Bytes) : State :=
  match p with
  | .rx => { s with rxIn := rest }
  | .tx => { s with txIn := rest }

/-- A port accepts a command: the RX port unless its last response is untaken (70_reset_and_hazards.md R216), the TX port
unless a TX_PACKET is in progress (R217). -/
def State.accepts (s : State) (p : Port) : Bool :=
  match p with
  | .rx => !s.rxUntaken
  | .tx => s.txWork.isNone

/-- The command at the front of a port (10_state.md R33): a whole command is taken and run, an illegal word is taken and
answered (60_exceptions.md R197), and part of a command waits for the rest (log entry 10). -/
def takeCommand (run : Instr → State → Result) (p : Port) (s : State) : Result :=
  match decode p (s.waiting p) with
  | .command i rest => run i (s.leave p rest)
  | .illegal _ rest => .next ((s.leave p rest).answerIllegal p)
  | .incomplete => .next s

/-- The turn of a port's engine. The RX port takes no command until its last response is taken (R216); a TX_PACKET in
progress goes on (R224), and a command that waits behind it is held (R217). -/
def engineTurn (run : Instr → State → Result) (p : Port) (s : State) : Result :=
  match p with
  | .rx => if s.rxUntaken then .next s else takeCommand run .rx s
  | .tx =>
    match s.txWork with
    | some w => .next (s.txAdvance w)
    | none => takeCommand run .tx s

/-- The RX engine has a command to take or an illegal word to answer. -/
def State.rxReady (s : State) : Bool :=
  s.accepts .rx && decide (decode .rx (s.waiting .rx) ≠ .incomplete)

/-- A move of the script (log entry 8). -/
def makeMove (run : Instr → State → Result) (v : Move) (s : State) : Result :=
  match v with
  | .rxTurn => engineTurn run .rx s
  | .txTurn => engineTurn run .tx s
  | .issueRx bs => .next { s with rxIn := s.rxIn ++ bs }
  | .issueTx bs => .next { s with txIn := s.txIn ++ bs }
  | .takeRx => .next { s with rxUntaken := false }
  | .answer a => .next { s with sinkAnswers := s.sinkAnswers ++ [a] }
  | .powerOn => .next s.powerOn

/-- One step: the script's next move; past its end, the RX engine's turn where it has work, else the TX engine's (20_memory.md
R48: no result depends on this choice; DESIGN CHOICE, log entry 8). -/
def stepWith (run : Instr → State → Result) (s : State) : Result :=
  match s.script with
  | v :: rest => makeMove run v { s with script := rest }
  | [] => if s.rxReady then engineTurn run .rx s else engineTurn run .tx s

/-- `s` with the bytes of a command where the engine of port `p` takes its next command: at the front of the port, the
port free to accept it, and the turn that engine's (log entry 13). -/
def State.withCommand (s : State) (p : Port) (bs : Bytes) : State :=
  match p with
  | .rx => { s with rxIn := bs ++ s.rxIn, rxUntaken := false, script := .rxTurn :: s.script }
  | .tx => { s with txIn := bs ++ s.txIn, txWork := none, script := .txTurn :: s.script }

end Sys2Proof.Machine
end

