-- ==== Sys2Proof/Machine/Step.lean ====
section
/-!
DEFINITION. One step of one copy of the block with its environment: the next move of the script, or, where the script is
at its end, a turn of an engine that has work. What an engine does at its turn stands in Engines.lean.
-/

namespace Sys2Proof.Machine

/-- The RX engine's turn (10_state.md R20, R33). -/
def rxTurn (s : State) : Result := engineTurn exec .rx s

/-- The TX engine's turn (R20, R33). -/
def txTurn (s : State) : Result := engineTurn exec .tx s

/-- One step. -/
def step (s : State) : Host.Outcome State Fault Refusal := stepWith exec s

/-- `s` with the instruction of bits `w` where the engine of its port takes its next command. -/
def State.withFetchWord (s : State) (nbits w : Nat) : State :=
  s.withCommand (tablePort nbits w) (tableCommand nbits w)

end Sys2Proof.Machine
end

