-- ==== Sys2Proof/WellFormed.lean ====
section
/-!
DEFINITION. Which commands can be issued: LEN16 counts the payload in 16 bits, so DATA has at most 65535 bytes
(30_encoding.md R68). Every other operand's type is its range.
-/

namespace Sys2Proof

/-- A payload whose length fits LEN16 (R68). -/
abbrev PayloadFits (data : Bytes) : Prop := data.length ≤ 65535

/-- A command that has an encoding. -/
abbrev Instr.WellFormed : Instr → Prop
  | .rxReset => True
  | .rxFeed _ => True
  | .txPacket data => PayloadFits data
  | .crc16 data => PayloadFits data
  | .b64Encode _ _ data => PayloadFits data
  | .b64Decode _ data => PayloadFits data
  | .b64DecLen data => PayloadFits data

end Sys2Proof
end

