-- ==== Sys2Proof/Machine/Asm.lean ====
section
/-!
DEFINITION. The assembler syntax of 30_encoding.md Part C: the commands (R77), their operands (R78) and the
pseudo-instructions (R79), from a line's characters to the commands it stands for. A line that is not of the syntax gives
nothing. What R77 to R79 leave open (blanks, letter case, the digits of a listed byte, the notation of `FEEDFRAMES.K<k>`) is fixed by log
entry 17.
-/

namespace Sys2Proof.Machine.Asm

/-- The double quote. -/
def quote : Char := Char.ofNat 0x22

/-- The backslash. -/
def backslash : Char := Char.ofNat 0x5C

/-- The single quote. -/
def tick : Char := Char.ofNat 0x27

/-- Blanks between the parts of a line. -/
def isBlank (c : Char) : Bool := decide (c = ' ') || decide (c.toNat = 9)

/-- Drop the blanks at the front. -/
def skipBlanks : List Char → List Char
  | [] => []
  | c :: cs => if isBlank c then skipBlanks cs else c :: cs

/-- The value of a decimal digit. -/
def decDigit (c : Char) : Option Nat :=
  if 0x30 ≤ c.toNat ∧ c.toNat ≤ 0x39 then some (c.toNat - 0x30) else none

/-- The value of a hexadecimal digit, of either case. -/
def hexDigit (c : Char) : Option Nat :=
  if 0x30 ≤ c.toNat ∧ c.toNat ≤ 0x39 then some (c.toNat - 0x30)
  else if 0x41 ≤ c.toNat ∧ c.toNat ≤ 0x46 then some (c.toNat - 0x41 + 10)
  else if 0x61 ≤ c.toNat ∧ c.toNat ≤ 0x66 then some (c.toNat - 0x61 + 10)
  else none

/-- Digits at the front, worth `base` each place, added to `acc`: the number and what follows it. -/
def digits (digit : Char → Option Nat) (base acc : Nat) : List Char → Nat × List Char
  | [] => (acc, [])
  | c :: cs =>
    match digit c with
    | some d => digits digit base (acc * base + d) cs
    | none => (acc, c :: cs)

/-- At least one digit, then more. -/
def digitsFrom (digit : Char → Option Nat) (base : Nat) : List Char → Option (Nat × List Char)
  | [] => none
  | c :: cs => (digit c).map fun d => digits digit base d cs

/-- A number: decimal, or hexadecimal after `0x` (R78). -/
def number : List Char → Option (Nat × List Char)
  | '0' :: 'x' :: cs => digitsFrom hexDigit 16 cs
  | cs => digitsFrom decDigit 10 cs

/-- The byte of an ASCII character. -/
def asciiByte (c : Char) : Option Byte := if c.toNat < 128 then some (BitVec.ofNat 8 c.toNat) else none

/-- Two hexadecimal digits. -/
def hexByte (a b : Char) : Option Byte :=
  match hexDigit a, hexDigit b with
  | some x, some y => some (BitVec.ofNat 8 (16 * x + y))
  | _, _ => none

/-- `<byte>` (R78): a number `0..255`, or a one-character string between single quotes. -/
def byteOperand (cs : List Char) : Option (Byte × List Char) :=
  match cs with
  | a :: c :: b :: rest =>
    if a = tick ∧ b = tick then (asciiByte c).map fun x => (x, rest)
    else (number cs).bind fun (n, rest) => if n ≤ 255 then some (BitVec.ofNat 8 n, rest) else none
  | _ => (number cs).bind fun (n, rest) => if n ≤ 255 then some (BitVec.ofNat 8 n, rest) else none

/-- `<cap>` (R78): a number `0..65535`. -/
def capOperand (cs : List Char) : Option (U16 × List Char) :=
  (number cs).bind fun (n, rest) => if n ≤ 65535 then some (BitVec.ofNat 16 n, rest) else none

/-- The rest of a bracketed list of two-digit hexadecimal bytes (R78). -/
def bracketed : List Char → Option (Bytes × List Char)
  | [] => none
  | c :: cs =>
    if isBlank c then bracketed cs
    else if c = ']' then some ([], cs)
    else
      match cs with
      | [] => none
      | d :: ds =>
        match hexByte c d, bracketed ds with
        | some b, some (bs, rest) => some (b :: bs, rest)
        | _, _ => none

/-- The rest of a double-quoted string, with its escapes (R78). -/
def quoted : List Char → Option (Bytes × List Char)
  | [] => none
  | c :: cs =>
    if c = quote then some ([], cs)
    else if c = backslash then
      match cs with
      | 'n' :: rest => (quoted rest).map fun (bs, r) => (0x0A#8 :: bs, r)
      | 'r' :: rest => (quoted rest).map fun (bs, r) => (0x0D#8 :: bs, r)
      | 'x' :: a :: b :: rest =>
        match hexByte a b, quoted rest with
        | some x, some (bs, r) => some (x :: bs, r)
        | _, _ => none
      | d :: rest => if d = backslash then (quoted rest).map fun (bs, r) => (0x5C#8 :: bs, r) else none
      | [] => none
    else
      match asciiByte c, quoted cs with
      | some b, some (bs, r) => some (b :: bs, r)
      | _, _ => none

/-- One item of `<bytes>` (R78). -/
def bytesItem : List Char → Option (Bytes × List Char)
  | [] => none
  | c :: cs => if c = '[' then bracketed cs else if c = quote then quoted cs else none

/-- `<bytes>` (R78): items joined by `++`; at most `fuel` of them. -/
def bytesItems : Nat → List Char → Option (Bytes × List Char)
  | 0, _ => none
  | fuel + 1, cs =>
    match bytesItem cs with
    | none => none
    | some (bs, rest) =>
      match skipBlanks rest with
      | '+' :: '+' :: more => (bytesItems fuel (skipBlanks more)).map fun (bs', r) => (bs ++ bs', r)
      | rest' => some (bs, rest')

/-- `<bytes>` (R78): a line has fewer items than characters. -/
def bytesOperand (cs : List Char) : Option (Bytes × List Char) := bytesItems cs.length cs

/-- The end of a line: blanks, then nothing or a comment (R77). -/
def atEnd (cs : List Char) : Bool :=
  match skipBlanks cs with
  | [] => true
  | c :: _ => decide (c = ';')

/-- What stands before the first blank or comment, and what follows. -/
def word : List Char → List Char × List Char
  | [] => ([], [])
  | c :: cs =>
    if isBlank c || decide (c = ';') then ([], c :: cs)
    else
      let (w, rest) := word cs
      (c :: w, rest)

/-- A line of the assembler (R77, R79). -/
inductive Line where
  /-- A command of R77. -/
  | command (i : Instr)
  /-- `FEEDS <bytes>`. -/
  | feeds (bs : Bytes)
  /-- `FEEDLINE <bytes>`. -/
  | feedLine (bs : Bytes)
  /-- `FEEDFRAMES <bytes>` with the sender's FRAME_GROUPS. -/
  | feedFrames (k : Nat) (bs : Bytes)
deriving DecidableEq, Repr

/-- The commands a line stands for (R79). -/
def Line.expand : Line → List Instr
  | .command i => [i]
  | .feeds bs => bs.map .rxFeed
  | .feedLine bs => bs.map .rxFeed ++ [.rxFeed newline]
  | .feedFrames k bs => (packetFrames k bs).flatten.map .rxFeed

/-- The operand `<bytes>` and the end of the line. -/
def bytesToEnd (cs : List Char) : Option Bytes :=
  match bytesOperand cs with
  | some (bs, rest) => if atEnd rest then some bs else none
  | none => none

/-- A line whose `<bytes>` is the payload of a command, so that LEN16 counts it (R68). -/
def bytesLine (make : Bytes → Line) (cs : List Char) : Option Line :=
  match bytesToEnd cs with
  | some bs => if PayloadFits bs then some (make bs) else none
  | none => none

/-- A line whose `<bytes>` are fed one by one (R79): any number of them, because FEED has no LEN16. -/
def fedLine (make : Bytes → Line) (cs : List Char) : Option Line := (bytesToEnd cs).map make

/-- The operands `<cap>, <bytes>` and the end of the line. -/
def capBytesLine (make : U16 → Bytes → Line) (cs : List Char) : Option Line :=
  match capOperand cs with
  | none => none
  | some (cap, rest) =>
    match skipBlanks rest with
    | ',' :: more => bytesLine (make cap) (skipBlanks more)
    | _ => none

/-- The FRAME_GROUPS value `FEEDFRAMES.K<k>` gives (R79), within its range (00_scope.md R11). R79 does not say how `<k>` is written:
it is read as decimal digits alone, without `0x` (DESIGN CHOICE, log entry 17). -/
def feedFramesGroups (k : List Char) : Option Nat :=
  match digitsFrom decDigit 10 k with
  | some (n, []) => if 2 ≤ n ∧ n ≤ 31 then some n else none
  | _ => none

/-- One line of R77 and R79 by its mnemonic. -/
def parseWord (w cs : List Char) : Option Line :=
  if w = ['R', 'X', 'R', 'S', 'T'] then if atEnd cs then some (.command .rxReset) else none
  else if w = ['F', 'E', 'E', 'D'] then
    match byteOperand cs with
    | some (b, rest) => if atEnd rest then some (.command (.rxFeed b)) else none
    | none => none
  else if w = ['T', 'X', 'P', 'K', 'T'] then bytesLine (fun d => .command (.txPacket d)) cs
  else if w = ['C', 'R', 'C', '1', '6'] then bytesLine (fun d => .command (.crc16 d)) cs
  else if w = ['B', '6', '4', 'E', 'N', 'C'] then capBytesLine (fun cap d => .command (.b64Encode true cap d)) cs
  else if w = ['B', '6', '4', 'E', 'N', 'C', '.', 'N', 'P'] then
    capBytesLine (fun cap d => .command (.b64Encode false cap d)) cs
  else if w = ['B', '6', '4', 'D', 'E', 'C'] then capBytesLine (fun cap d => .command (.b64Decode cap d)) cs
  else if w = ['B', '6', '4', 'L', 'E', 'N'] then bytesLine (fun d => .command (.b64DecLen d)) cs
  else if w = ['F', 'E', 'E', 'D', 'S'] then fedLine .feeds cs
  else if w = ['F', 'E', 'E', 'D', 'L', 'I', 'N', 'E'] then fedLine .feedLine cs
  else
    match w with
    | 'F' :: 'E' :: 'E' :: 'D' :: 'F' :: 'R' :: 'A' :: 'M' :: 'E' :: 'S' :: k =>
      match k with
      | [] => bytesLine (.feedFrames 31) cs
      | '.' :: 'K' :: n =>
        match feedFramesGroups n with
        | some k => bytesLine (.feedFrames k) cs
        | none => none
      | _ => none
    | _ => none

/-- The commands of one line; none for a blank line or a comment, nothing where the line is not of the syntax. -/
def assembleLine (cs : List Char) : Option (List Instr) :=
  if atEnd cs then some []
  else
    let (w, rest) := word (skipBlanks cs)
    (parseWord w (skipBlanks rest)).map Line.expand

end Sys2Proof.Machine.Asm
end

