-- ==== Sys2Proof/Machine/System.lean ====
section
/-!
DEFINITION. A system of `N_INST` copies of the block (10_state.md R21, 60_exceptions.md R205), each with its own ports and
Receive Context: N_INST is the length of the list (OPEN, I18; log entry 4).
-/

namespace Sys2Proof.Machine

/-- Copy `k` of a system takes a step; where there is no copy `k`, nothing moves. -/
def systemStep (k : Nat) (sys : List State) : Host.Outcome (List State) Fault Refusal :=
  match sys[k]? with
  | none => .next sys
  | some s =>
    match step s with
    | .next t => .next (sys.set k t)
    | .fault f => .fault f
    | .refused r => .refused r

/-- The copies of a system take steps in an order the environment chooses; it ends at the first step that stops. -/
def systemRun : List Nat → List State → Host.Outcome (List State) Fault Refusal
  | [], sys => .next sys
  | k :: ks, sys =>
    match systemStep k sys with
    | .next sys' => systemRun ks sys'
    | .fault f => .fault f
    | .refused r => .refused r

/-- A system of `n` copies after power-on. -/
def systemReset (n : Nat) : List State := List.replicate n State.reset

end Sys2Proof.Machine
end

