-- ==== Sys2Proof/Safety.lean ====
section
/-!
DEFINITION. The terms statements about the machine are written in: the invariant of a reachable state (10_state.md R27 to
R29), what of the Receive Context is observable (60_exceptions.md R209), a decoder over plain lists that RX_FEED refines,
and runs of several commands or turns.
-/

namespace Sys2Proof

open Machine

/-! ### The invariant -/

/-- The working set of a TX_PACKET in progress is that of some packet, with the next frame within it (10_state.md R31,
43_tx_encoder.md R161). -/
def TxWorkOk (k : Nat) (w : TxWork) : Prop :=
  (∃ data : Bytes, PayloadFits data ∧
      w = { txLoad k data with next := w.next, phase := w.phase }) ∧
    w.next ≤ w.frames.length ∧ (w.phase ≠ .offering → w.next < w.frames.length)

/-- What holds of the state between commands: at reset and after every step. -/
structure Inv (s : State) : Prop where
  /-- The build parameters are in their ranges (00_scope.md R9 to R11). -/
  admissible : s.cfg.Admissible
  /-- `raw_buf` is in canonical form and within its capacity (20_memory.md R41). -/
  rawWf : s.rawBuf.wf = true
  rawWithin : s.rawBuf.within s.cfg.rawCap = true
  /-- `enc_buf` is in canonical form and within its capacity (R41). -/
  encWf : s.encBuf.wf = true
  encWithin : s.encBuf.within s.cfg.encCap = true
  /-- Every byte of `raw_buf[0..raw_offset)` has been written (10_state.md R27). -/
  rawWritten : (s.rawBuf.readBytes 0 s.rawOffset).isSome = true
  /-- Every byte of the scratch window has been written, and none is `0x0A` (R28). -/
  windowWritten : ∃ line : Bytes, s.encBuf.readBytes 0 s.encodedLen = some line ∧ newline ∉ line
  /-- `raw_offset` is 0, or at least 2 and within RAW_CAP and the declared length (R29). -/
  rawRange : s.rawOffset = 0 ∨
    (2 ≤ s.rawOffset ∧ s.rawOffset ≤ s.cfg.rawCap ∧ s.rawOffset ≤ s.declaredBodyLen.toNat + 3)
  /-- `encoded_len` is within ENC_CAP (R29). -/
  windowRange : s.encodedLen ≤ s.cfg.encCap
  /-- A TX_PACKET in progress holds the working set of a packet. -/
  txWorkOk : ∀ w : TxWork, s.txWork = some w → TxWorkOk s.cfg.frameGroups w

/-- No command is in progress on either port (60_exceptions.md R209): RX commands are one step each, so this is about the
TX engine alone. -/
def Quiescent (s : State) : Prop := s.txWork = none

/-! ### What of the Receive Context can be observed -/

/-- The defined part of the Receive Context (R209): the decoded stream so far, the line so far, `declared_body_len`. -/
structure RxView where
  /-- `raw_buf[0..raw_offset)`. -/
  stream : Bytes
  /-- `enc_buf[0..encoded_len)`. -/
  line : Bytes
  declared : U16
deriving DecidableEq, Repr

/-- A state's Receive Context is `v`. -/
def Views (s : State) (v : RxView) : Prop :=
  s.rawBuf.readBytes 0 s.rawOffset = some v.stream ∧
    s.encBuf.readBytes 0 s.encodedLen = some v.line ∧ s.declaredBodyLen = v.declared

/-- Two states that differ at most in buffer bytes no rule reads (10_state.md R27, R28): those at and above `raw_offset`
and `encoded_len`. -/
def SameObservable (s t : State) : Prop :=
  t = { s with rawBuf := t.rawBuf, encBuf := t.encBuf } ∧
    s.rawBuf.readBytes 0 s.rawOffset = t.rawBuf.readBytes 0 t.rawOffset ∧
    s.encBuf.readBytes 0 s.encodedLen = t.encBuf.readBytes 0 t.encodedLen

/-! ### The decoder over plain lists

42_rx_decoder.md R122 with the two buffers as lists: what RX_FEED does to the observable Receive Context, and its
response. -/

/-- Scratch overflow (R123). -/
def RxView.overflowed (v : RxView) (encCap : Nat) : RxView :=
  if v.line.length = encCap then { v with stream := [], line := [] } else v

/-- A frame's decoded bytes `r` (R132 to R140); `start` says that the tag is the packet-start tag. -/
def RxView.frame (v : RxView) (rawCap : Nat) (start : Bool) (r : Bytes) : RxView × Response :=
  let stream := if start then r else v.stream ++ r
  let declared := if start then be16 (r.getD 0 0#8) (r.getD 1 0#8) else v.declared
  if rawCap < stream.length then (v, Response.okNone)
  else if start = true ∧ r.length < 2 then (v, Response.okNone)
  else if stream.length < declared.toNat + 4 then
    ({ v with stream := stream, declared := declared }, Response.okNone)
  else if stream.length = declared.toNat + 4 ∧ crc16 (stream.drop 2) = 0#16 then
    ({ v with stream := [], declared := declared },
      { status := .packet, payload := .data ((stream.drop 2).take declared.toNat) })
  else ({ v with stream := [], declared := declared }, Response.okNone)

/-- A whole line (R128 to R133). -/
def RxView.evalLine (v : RxView) (rawCap : Nat) (line : Bytes) : RxView × Response :=
  let tag := line.take 2
  if tag ≠ [0x06#8, 0x09#8] ∧ tag ≠ [0x04#8, 0x14#8] then (v, Response.okNone)
  else if tag = [0x04#8, 0x14#8] ∧ v.stream = [] then (v, Response.okNone)
  else
    match b64Dec (line.drop 2) with
    | none => (v, Response.okNone)
    | some r => v.frame rawCap (decide (tag = [0x06#8, 0x09#8])) r

/-- One byte (R123 to R126). -/
def RxView.feed (v : RxView) (p : BuildParams) (b : Byte) : RxView × Response :=
  let v := v.overflowed p.encCap
  if b ≠ 0x0A#8 then ({ v with line := v.line ++ [b] }, Response.okNone)
  else RxView.evalLine { v with line := [] } p.rawCap v.line

/-! ### Where RX_FEED stores -/

/-- The index of `enc_buf` that RX_FEED stores its byte at (R124): the meaning's own expression. -/
def scratchIndex (s : State) : Nat := (scratchOverflow s).encodedOffset + (scratchOverflow s).encodedLen

/-- What RX_FEED finds the line to be, where the byte ends one (R127 to R136): the meaning's own expressions. -/
def feedVerdict (b : Byte) (s : State) : Option LineVerdict :=
  match scratchAppend b (scratchOverflow s) with
  | .error _ => none
  | .ok s' =>
    if b ≠ newline then none
    else
      match bufRead .enc s'.encBuf s'.encodedOffset (s'.encodedLen - 1) with
      | .error _ => none
      | .ok line => some (lineVerdict s'.cfg.rawCap s'.rawOffset line)

/-- The bytes of `raw_buf` that RX_FEED stores to: those of the frame it commits (R134). -/
def StoresRaw (b : Byte) (s : State) (a : Nat) : Prop :=
  ∃ start base r, feedVerdict b s = some (.accept start base r) ∧ base ≤ a ∧ a < base + r.length

/-- The line that a newline would end now (R127): the scratch window, after the overflow rule (R123). -/
def CurrentLine (s : State) (line : Bytes) : Prop :=
  (scratchOverflow s).encBuf.readBytes 0 (scratchOverflow s).encodedLen = some line

/-- `s` after a newline whose line is discarded: only the scratch window has changed (R130), and by R123 the packet in
progress where the window was full; the response is `ST_OK`. -/
def lineDiscarded (s : State) (e : GhostEvent) : State :=
  { scratchOverflow s with
    encBuf := (scratchOverflow s).encBuf.write (scratchIndex s) newline
    encodedLen := 0
    ev := e
    rxResponses := s.rxResponses ++ [Response.okNone]
    rxUntaken := true }

/-- The malformed lines of 60_exceptions.md R187, for a decoder with `rawOffset` bytes of a packet. -/
def Malformed (rawCap rawOffset : Nat) (line : Bytes) : Prop :=
  line.length < 2 ∨
  (line.take 2 ≠ [0x06#8, 0x09#8] ∧ line.take 2 ≠ [0x04#8, 0x14#8]) ∨
  (line.take 2 = [0x04#8, 0x14#8] ∧ rawOffset = 0) ∨
  b64Dec (line.drop 2) = none ∨
  (∃ r, b64Dec (line.drop 2) = some r ∧
    ((line.take 2 = [0x06#8, 0x09#8] ∧ rawCap < r.length) ∨
     (line.take 2 = [0x04#8, 0x14#8] ∧ rawCap < rawOffset + r.length) ∨
     (line.take 2 = [0x06#8, 0x09#8] ∧ r.length < 2)))

/-! ### Words of commands -/

/-- The command word of the opcode map (30_encoding.md R69, R77). -/
def Head.word : Head → U16
  | .rxReset => 0x0100#16
  | .rxFeed b => 0x0200#16 ||| b.setWidth 16
  | .txPacket => 0x1000#16
  | .crc16 => 0x2000#16
  | .b64Encode pad => if pad then 0x2101#16 else 0x2100#16
  | .b64Decode => 0x2200#16
  | .b64DecLen => 0x2300#16

/-! ### Runs -/

/-- One RX_FEED per byte, in order (42_rx_decoder.md R149). -/
def feedAll : Bytes → State → Result
  | [], s => .next s
  | b :: bs, s =>
    match exec (.rxFeed b) s with
    | .next t => feedAll bs t
    | .fault f => .fault f
    | .refused r => .refused r

/-- A byte as the assembler lists it: two hexadecimal digits (R78; log entry 17). -/
def hexChars (b : Byte) : List Char := [Nat.digitChar (b.toNat / 16), Nat.digitChar (b.toNat % 16)]

/-- A byte string as a bracketed list (R78), without blanks and with digits of lower case, as log entry 17 admits. -/
def listed (bs : Bytes) : List Char := '[' :: bs.flatMap hexChars ++ [']']

/-- `n` turns of the TX engine. -/
def txTurns : Nat → State → Result
  | 0, s => .next s
  | n + 1, s =>
    match txTurn s with
    | .next t => txTurns n t
    | .fault f => .fault f
    | .refused r => .refused r

/-- The environment's next move. -/
def Machine.State.withMove (s : State) (v : Move) : State := { s with script := v :: s.script }

/-- One `Send` whose answer is late: `wait` turns of the TX engine, then the sink answers (a step of the script), then one
more turn. -/
def lateSend (wait : Nat) (a : SendAnswer) (s : State) : Result :=
  match txTurns wait s with
  | .next t =>
    match step (t.withMove (.answer a)) with
    | .next u => txTurn u
    | .fault f => .fault f
    | .refused r => .refused r
  | .fault f => .fault f
  | .refused r => .refused r

/-- Late answers, one after the other: how long each keeps the engine waiting, and the answer. -/
def lateSends : List (Nat × SendAnswer) → State → Result
  | [], s => .next s
  | (wait, a) :: rest, s =>
    match lateSend wait a s with
    | .next t => lateSends rest t
    | .fault f => .fault f
    | .refused r => .refused r

end Sys2Proof
end

