-- ==== Sys2Proof/Certificates/Slice0/Obligations.lean ====
section
/-!
DEFINITION. The statements about the machine, for the provers. Each docstring names the rule it formalises; the terms are
those of Safety.lean.
-/

open Sys2Proof Sys2Proof.Machine

/-! ### Encoding and decoding -/

/-- 30_encoding.md R65 to R76: the bytes of a well-formed command, whatever follows them, decode on its port to that
command, and what follows is left for the next one. -/
def Obligations.DecodeOfEncodeIsTheCommand : Prop :=
  ∀ (i : Instr) (rest : Bytes), i.WellFormed → decode i.port (encode i ++ rest) = .command i rest

/-- The other direction: where the decoder reads a command from a port, the command is well-formed, of that port, and the
bytes taken are its encoding. -/
def Obligations.DecodedCommandWasEncoded : Prop :=
  ∀ (p : Port) (bs : Bytes) (i : Instr) (rest : Bytes), decode p bs = .command i rest →
    i.WellFormed ∧ i.port = p ∧ bs = encode i ++ rest

/-- The opcode map of R69 with R72 and R73: a word is legal on a port exactly where it is the command word of a command of
that port. -/
def Obligations.LegalWordsAreTheOpcodeMap : Prop :=
  ∀ (p : Port) (w : U16) (h : Head), decodeHead p w = .ok h ↔ h.port = p ∧ w = h.word

/-- R80: the encoding examples, each as assembled, as encoded and as decoded; `0x2103` on either port and, on the TX port,
`0x0201` are illegal. -/
def Obligations.EncodingExamplesHold : Prop :=
  Asm.assembleLine ['F', 'E', 'E', 'D', ' ', '0', 'x', '0', 'A'] = some [.rxFeed 0x0A#8] ∧
  Asm.assembleLine ['F', 'E', 'E', 'D', ' ', Asm.tick, 'A', Asm.tick] = some [.rxFeed 0x41#8] ∧
  Asm.assembleLine ['R', 'X', 'R', 'S', 'T'] = some [.rxReset] ∧
  Asm.assembleLine ['C', 'R', 'C', '1', '6', ' ', '[', '0', '1', ' ', '0', '2', ' ', '0', '3', ' ', '0', '4', ']'] =
    some [.crc16 [0x01#8, 0x02#8, 0x03#8, 0x04#8]] ∧
  Asm.assembleLine ['B', '6', '4', 'E', 'N', 'C', ' ', '1', '6', ',', ' ', '[', '0', '1', ']'] =
    some [.b64Encode true 0x0010#16 [0x01#8]] ∧
  encode (.rxFeed 0x0A#8) = [0x02#8, 0x0A#8] ∧ decode .rx [0x02#8, 0x0A#8] = .command (.rxFeed 0x0A#8) [] ∧
  encode (.rxFeed 0x41#8) = [0x02#8, 0x41#8] ∧ decode .rx [0x02#8, 0x41#8] = .command (.rxFeed 0x41#8) [] ∧
  encode .rxReset = [0x01#8, 0x00#8] ∧ decode .rx [0x01#8, 0x00#8] = .command .rxReset [] ∧
  encode (.crc16 [0x01#8, 0x02#8, 0x03#8, 0x04#8]) =
    [0x20#8, 0x00#8, 0x00#8, 0x04#8, 0x01#8, 0x02#8, 0x03#8, 0x04#8] ∧
  decode .tx [0x20#8, 0x00#8, 0x00#8, 0x04#8, 0x01#8, 0x02#8, 0x03#8, 0x04#8] =
    .command (.crc16 [0x01#8, 0x02#8, 0x03#8, 0x04#8]) [] ∧
  encode (.b64Encode true 0x0010#16 [0x01#8]) = [0x21#8, 0x01#8, 0x00#8, 0x10#8, 0x00#8, 0x01#8, 0x01#8] ∧
  decode .tx [0x21#8, 0x01#8, 0x00#8, 0x10#8, 0x00#8, 0x01#8, 0x01#8] =
    .command (.b64Encode true 0x0010#16 [0x01#8]) [] ∧
  decode .tx [0x21#8, 0x03#8] = .illegal (.reservedImm 0x21#8 0x03#8) [] ∧
  decode .rx [0x21#8, 0x03#8] = .illegal (.reservedImm 0x21#8 0x03#8) [] ∧
  decode .tx [0x02#8, 0x01#8] = .illegal (.wrongPort (.rxFeed 0x01#8)) []

/-- From R79: the pseudo-instructions, for a byte string written as one bracketed list. FEEDS and FEEDLINE take any number of bytes;
FEEDFRAMES feeds the frames of a body that TXPKT can carry, with 31 groups a frame or the number given. That the list may have no
blanks between its bytes and digits of lower case, and that `<k>` is written in decimal, is the model's choice (log entry 17).
Quoted strings and items joined by `++` (R78) are not covered. -/
def Obligations.PseudoInstructionsExpand : Prop :=
  (∀ bs : Bytes, Asm.assembleLine (['F', 'E', 'E', 'D', 'S', ' '] ++ listed bs) = some (bs.map .rxFeed)) ∧
  (∀ bs : Bytes, Asm.assembleLine (['F', 'E', 'E', 'D', 'L', 'I', 'N', 'E', ' '] ++ listed bs) =
    some (bs.map .rxFeed ++ [.rxFeed 0x0A#8])) ∧
  (∀ bs : Bytes, PayloadFits bs →
    Asm.assembleLine (['F', 'E', 'E', 'D', 'F', 'R', 'A', 'M', 'E', 'S', ' '] ++ listed bs) =
      some ((packetFrames 31 bs).flatten.map .rxFeed)) ∧
  (∀ (k : Nat) (bs : Bytes), 2 ≤ k → k ≤ 31 → PayloadFits bs →
    Asm.assembleLine
        (['F', 'E', 'E', 'D', 'F', 'R', 'A', 'M', 'E', 'S', '.', 'K'] ++ Nat.toDigits 10 k ++ [' '] ++ listed bs) =
      some ((packetFrames k bs).flatten.map .rxFeed))

/-! ### A step -/

/-- A step runs the decoded command: where it is the turn of port `p`'s engine, the port accepts a command and its bytes
hold one, the step is `exec` of it at the state with that turn and those bytes taken. Past the end of the script it is the
RX engine's turn where that engine has a command, and else the TX engine's (log entry 8). -/
def Obligations.StepRunsTheDecodedCommand : Prop :=
  (∀ (s : State) (moves : List Move) (i : Instr) (rest : Bytes),
    s.script = .rxTurn :: moves → s.rxUntaken = false → decode .rx s.rxIn = .command i rest →
      step s = exec i { s with script := moves, rxIn := rest }) ∧
  (∀ (s : State) (moves : List Move) (i : Instr) (rest : Bytes),
    s.script = .txTurn :: moves → s.txWork = none → decode .tx s.txIn = .command i rest →
      step s = exec i { s with script := moves, txIn := rest }) ∧
  (∀ (s : State) (i : Instr) (rest : Bytes),
    s.script = [] → s.rxUntaken = false → decode .rx s.rxIn = .command i rest →
      step s = exec i { s with rxIn := rest }) ∧
  (∀ (s : State) (i : Instr) (rest : Bytes),
    s.script = [] → s.rxUntaken = true ∨ decode .rx s.rxIn = .incomplete → s.txWork = none →
      decode .tx s.txIn = .command i rest → step s = exec i { s with txIn := rest })

/-- R72 and 60_exceptions.md R197: a word that is no command word of its port is taken alone, answered `ST_ERR_ILLEGAL`
with no payload, and changes no state of the block; the next bytes are the next command word. That the RX port then waits
for the response to be taken is the model's choice (log entry 9). -/
def Obligations.IllegalWordIsAnsweredAndChangesNothing : Prop :=
  (∀ (s : State) (hb lb : Byte) (rest : Bytes), s.rxUntaken = false → s.rxIn = hb :: lb :: rest →
    (∀ h : Head, h.port = .rx → be16 hb lb ≠ h.word) →
      rxTurn s = .next { s with
        rxIn := rest
        rxUntaken := true
        rxResponses := s.rxResponses ++ [{ status := .errIllegal, payload := .empty }] }) ∧
  (∀ (s : State) (hb lb : Byte) (rest : Bytes), s.txWork = none → s.txIn = hb :: lb :: rest →
    (∀ h : Head, h.port = .tx → be16 hb lb ≠ h.word) →
      txTurn s = .next { s with
        txIn := rest
        txResponses := s.txResponses ++ [{ status := .errIllegal, payload := .empty }] })

/-- 70_reset_and_hazards.md R216 and R217: while the last RX response is untaken (any response: log entry 9) the RX engine's turn
changes nothing; while
a TX_PACKET is in progress the TX engine's turn takes no command byte and runs no command. -/
def Obligations.HeldCommandsWait : Prop :=
  (∀ s : State, s.rxUntaken = true → rxTurn s = .next s) ∧
  (∀ (s : State) (w : TxWork), s.txWork = some w →
    ∃ t, txTurn s = .next t ∧ t.txIn = s.txIn ∧
      ((t.txWork ≠ none ∧ t.txResponses = s.txResponses) ∨
       (t.txWork = none ∧ ∃ r, t.txResponses = s.txResponses ++ [r])))

/-- The environment's moves, each a step: taking the RX response frees the RX port (70_reset_and_hazards.md R216), command bytes
join the end of their port's bytes (20_memory.md R47), and the sink's answers are received in the order given (43_tx_encoder.md
R174). Each changes nothing else. That they are moves of a script is log entry 8. -/
def Obligations.EnvironmentMovesAreTheirEffects : Prop :=
  (∀ (s : State) (moves : List Move), s.script = .takeRx :: moves →
    step s = .next { s with script := moves, rxUntaken := false }) ∧
  (∀ (s : State) (moves : List Move) (bs : Bytes), s.script = .issueRx bs :: moves →
    step s = .next { s with script := moves, rxIn := s.rxIn ++ bs }) ∧
  (∀ (s : State) (moves : List Move) (bs : Bytes), s.script = .issueTx bs :: moves →
    step s = .next { s with script := moves, txIn := s.txIn ++ bs }) ∧
  (∀ (s : State) (moves : List Move) (a : SendAnswer), s.script = .answer a :: moves →
    step s = .next { s with script := moves, sinkAnswers := s.sinkAnswers ++ [a] })

/-- 70_reset_and_hazards.md R216 and R217: a held command is neither lost nor refused. Once the RX response is taken the RX
engine's next turn runs the command that waits; once TX_PACKET gives its response (it failed, or every frame was sent) the TX
engine's next turn runs the command that waits. -/
def Obligations.HeldCommandRunsAfterTheResponse : Prop :=
  (∀ (s : State) (moves : List Move) (i : Instr) (rest : Bytes), s.script = .takeRx :: .rxTurn :: moves →
    decode .rx s.rxIn = .command i rest →
    ∃ t, step s = .next t ∧ step t = exec i { s with script := moves, rxUntaken := false, rxIn := rest }) ∧
  (∀ (s : State) (w : TxWork) (i : Instr) (rest : Bytes), s.txWork = some w →
    (∃ e, w.phase = .failed e) ∨ (w.phase = .offering ∧ w.frames.length ≤ w.next) →
    decode .tx s.txIn = .command i rest →
    ∃ t r, txTurn s = .next t ∧ t = { s with txWork := none, txResponses := s.txResponses ++ [r] } ∧
      txTurn t = exec i { t with txIn := rest })

/-- 30_encoding.md R67 and 20_memory.md R47: bytes that come later change nothing of what the port reads first, so commands are
taken in the order they are issued, in whatever chunks they come. -/
def Obligations.LaterBytesWaitTheirTurn : Prop :=
  ∀ (p : Port) (bs later rest : Bytes),
    (∀ i, decode p bs = .command i rest → decode p (bs ++ later) = .command i (rest ++ later)) ∧
    (∀ why, decode p bs = .illegal why rest → decode p (bs ++ later) = .illegal why (rest ++ later))

/-- 10_state.md R20 and R31: the two engines share no state. A turn of one leaves everything of the other, the build
parameters and the script as they are. -/
def Obligations.EnginesShareNoState : Prop :=
  (∀ s t : State, rxTurn s = .next t →
    t = { s with
      rawOffset := t.rawOffset, rawBuf := t.rawBuf, encodedLen := t.encodedLen, encBuf := t.encBuf
      declaredBodyLen := t.declaredBodyLen, ev := t.ev, ovf := t.ovf
      rxIn := t.rxIn, rxUntaken := t.rxUntaken, rxResponses := t.rxResponses }) ∧
  (∀ s t : State, txTurn s = .next t →
    t = { s with
      txIn := t.txIn, txWork := t.txWork, txResponses := t.txResponses
      sinkOffers := t.sinkOffers, sinkAnswers := t.sinkAnswers })

/-- 20_memory.md R48: no result depends on how the two ports interleave. A turn of each engine gives the same state in
either order. -/
def Obligations.EngineTurnsCommute : Prop :=
  ∀ s u : State,
    (∃ t, rxTurn s = .next t ∧ txTurn t = .next u) ↔ (∃ v, txTurn s = .next v ∧ rxTurn v = .next u)

/-- 60_exceptions.md R205: a step of one copy of the block is that copy's own step, and no other copy changes. -/
def Obligations.CopiesShareNothing : Prop :=
  ∀ (k : Nat) (sys sys' : List State), systemStep k sys = .next sys' →
    (∀ j, j ≠ k → sys'[j]? = sys[j]?) ∧
    (∀ s, sys[k]? = some s → ∃ t, step s = .next t ∧ sys'[k]? = some t)

/-! ### Reset -/

/-- 10_state.md R37: the values after power-on reset (an idle port has no command in progress, no byte taken in and no response
untaken), and those of the RX registers after RX_RESET. -/
def Obligations.ResetHasTheStatedValues : Prop :=
  State.reset.rawOffset = 0 ∧ State.reset.encodedLen = 0 ∧ State.reset.encodedOffset = 0 ∧
    State.reset.declaredBodyLen = 0#16 ∧ State.reset.txWork = none ∧ State.reset.rxIn = [] ∧
    State.reset.txIn = [] ∧ State.reset.rxUntaken = false ∧
    ∀ s : State, ∃ t, exec .rxReset s = .next t ∧ t.rawOffset = 0 ∧ t.encodedLen = 0 ∧ t.encodedOffset = 0 ∧
      t.declaredBodyLen = 0#16

/-- 70_reset_and_hazards.md R210 and R211: power-on reset at any point, a TX_PACKET in progress included, puts the block in
the reset state; the command is abandoned with no response and no further frame is offered. The build parameters stay.
That command bytes still on a port are dropped is the model's choice (log entry 11). -/
def Obligations.PowerOnAbandonsTheCommand : Prop :=
  ∀ (s : State) (moves : List Move), s.script = .powerOn :: moves →
    step s = .next { State.reset with
      cfg := s.cfg
      rxResponses := s.rxResponses
      txResponses := s.txResponses
      sinkOffers := s.sinkOffers
      sinkAnswers := s.sinkAnswers
      script := moves }

/-- 42_rx_decoder.md R120: RX_RESET clears `raw_offset`, `encoded_len` and `declared_body_len`, leaves the buffers' contents
as they are and answers `ST_OK`; nothing else changes but the ghosts and the hand-off of the response (log entries 7, 9). -/
def Obligations.RxResetClearsTheContext : Prop :=
  ∀ s : State, exec .rxReset s = .next { s with
    rawOffset := 0
    encodedLen := 0
    declaredBodyLen := 0#16
    ev := .reset
    ovf := false
    rxUntaken := true
    rxResponses := s.rxResponses ++ [{ status := .ok, payload := .empty }] }

/-! ### RX_FEED -/

/-- 42_rx_decoder.md R123 to R125: a byte other than `0x0A` is stored in the scratch window and answered `ST_OK`. Where the
window is full it is emptied first and the packet in progress dropped, and the byte is the first of a new window. Nothing
else changes but the ghosts and the hand-off of the response (log entry 9). -/
def Obligations.OrdinaryByteIsStored : Prop :=
  ∀ (s : State) (b : Byte), b ≠ 0x0A#8 → s.cfg.Admissible → s.encodedLen ≤ s.cfg.encCap →
    exec (.rxFeed b) s = .next
      (if s.encodedLen = s.cfg.encCap then
        { s with
          rawOffset := 0
          encBuf := s.encBuf.write 0 b
          encodedLen := 1
          ev := .accum
          ovf := true
          rxUntaken := true
          rxResponses := s.rxResponses ++ [{ status := .ok, payload := .empty }] }
      else
        { s with
          encBuf := s.encBuf.write s.encodedLen b
          encodedLen := s.encodedLen + 1
          ev := .accum
          ovf := false
          rxUntaken := true
          rxResponses := s.rxResponses ++ [{ status := .ok, payload := .empty }] })

/-- R126: of the bytes RX_FEED takes, `0x0A` leaves the scratch window empty, whatever the line, and no other byte does. (RX_RESET
and power-on reset empty it too: RxResetClearsTheContext, PowerOnAbandonsTheCommand.) -/
def Obligations.AmongFedBytesOnlyNewlineEmptiesTheWindow : Prop :=
  ∀ (s t : State) (b : Byte), exec (.rxFeed b) s = .next t → (t.encodedLen = 0 ↔ b = 0x0A#8)

/-- 60_exceptions.md R187 with 42_rx_decoder.md R128 to R134 and R136: each malformed line is discarded. The newline leaves
`raw_offset`, `declared_body_len` and `raw_buf` as they were (after the overflow rule R123), so a packet in progress stays in
progress, empties the window and is answered `ST_OK`; the RX port then waits for the response to be taken (log entry 9). -/
def Obligations.MalformedLineIsDiscarded : Prop :=
  ∀ (s : State) (line : Bytes), Inv s → CurrentLine s line →
    Malformed s.cfg.rawCap (scratchOverflow s).rawOffset line →
      ∃ e, exec (.rxFeed 0x0A#8) s = .next (lineDiscarded s e)

/-- R130, R131, R133, R134 and R136 one by one, by the ghost event of 60_exceptions.md R193: a line with no tag or an unknown one
is not a frame; a continuation with no packet in progress is an orphan; then a frame is dropped whose text is not strict Base64,
else one whose bytes do not fit `raw_buf`, else a packet-start frame of fewer than two bytes. Each leaves the state of
`lineDiscarded`: the scratch window empty and, where the newline found it full, the packet in progress dropped by R123. The
hand-off of the response is as log entry 9 says. -/
def Obligations.DiscardedLineIsNamedByItsFirstDefect : Prop :=
  ∀ (s : State) (line : Bytes), Inv s → CurrentLine s line →
    ((line.take 2 ≠ [0x06#8, 0x09#8] ∧ line.take 2 ≠ [0x04#8, 0x14#8]) →
      exec (.rxFeed 0x0A#8) s = .next (lineDiscarded s .notFrame)) ∧
    ((line.take 2 = [0x04#8, 0x14#8] ∧ (scratchOverflow s).rawOffset = 0) →
      exec (.rxFeed 0x0A#8) s = .next (lineDiscarded s .orphan)) ∧
    ((line.take 2 = [0x06#8, 0x09#8] ∨ (line.take 2 = [0x04#8, 0x14#8] ∧ (scratchOverflow s).rawOffset ≠ 0)) →
      b64Dec (line.drop 2) = none → exec (.rxFeed 0x0A#8) s = .next (lineDiscarded s .badB64)) ∧
    (∀ r, b64Dec (line.drop 2) = some r →
      ((line.take 2 = [0x06#8, 0x09#8] ∧ s.cfg.rawCap < r.length) ∨
       (line.take 2 = [0x04#8, 0x14#8] ∧ (scratchOverflow s).rawOffset ≠ 0 ∧
         s.cfg.rawCap < (scratchOverflow s).rawOffset + r.length)) →
      exec (.rxFeed 0x0A#8) s = .next (lineDiscarded s .cap)) ∧
    (∀ r, b64Dec (line.drop 2) = some r → line.take 2 = [0x06#8, 0x09#8] → r.length ≤ s.cfg.rawCap → r.length < 2 →
      exec (.rxFeed 0x0A#8) s = .next (lineDiscarded s .short))

/-- R132 and R134 to R140: a frame that is accepted. Its bytes go to offset 0 for a packet-start frame, else after those of
the packet in progress; a packet-start frame's first two bytes become `declared_body_len`; then the total decides: fewer bytes
than `declared_body_len + 4` and the packet goes on, more and it is dropped, exactly as many and the CRC of body and trailer
decides between `ST_PACKET` with the body and a drop. -/
def Obligations.AcceptedFrameIsCommittedAndJudged : Prop :=
  ∀ (s : State) (line r : Bytes) (start : Bool) (base : Nat), Inv s → CurrentLine s line →
    line.take 2 = (if start then [0x06#8, 0x09#8] else [0x04#8, 0x14#8]) →
    base = (if start then 0 else (scratchOverflow s).rawOffset) →
    (start = false → base ≠ 0) →
    b64Dec (line.drop 2) = some r → (start = true → 2 ≤ r.length) → base + r.length ≤ s.cfg.rawCap →
    ∃ t, exec (.rxFeed 0x0A#8) s = .next t ∧
      t.encodedLen = 0 ∧
      t.rawBuf = s.rawBuf.writeBytes base r ∧
      t.declaredBodyLen = (if start then be16 (r.getD 0 0#8) (r.getD 1 0#8) else s.declaredBodyLen) ∧
      ((base + r.length < t.declaredBodyLen.toNat + 4 ∧ t.rawOffset = base + r.length ∧ t.ev = .more ∧
          t.rxResponses = s.rxResponses ++ [{ status := .ok, payload := .empty }]) ∨
       (t.declaredBodyLen.toNat + 4 < base + r.length ∧ t.rawOffset = 0 ∧ t.ev = .overlen ∧
          t.rxResponses = s.rxResponses ++ [{ status := .ok, payload := .empty }]) ∨
       (base + r.length = t.declaredBodyLen.toNat + 4 ∧ t.rawOffset = 0 ∧
          ∃ span, t.rawBuf.readBytes 2 (t.declaredBodyLen.toNat + 2) = some span ∧
            ((crc16 span ≠ 0#16 ∧ t.ev = .crc ∧
                t.rxResponses = s.rxResponses ++ [{ status := .ok, payload := .empty }]) ∨
             (crc16 span = 0#16 ∧ t.ev = .complete ∧
                t.rxResponses = s.rxResponses ++
                  [{ status := .packet, payload := .data (span.take t.declaredBodyLen.toNat) }]))))

/-- The frame of RX_FEED: it stores one byte of `enc_buf` at the index its meaning computes, and of `raw_buf` only the bytes
of a frame it commits; no other byte of either buffer changes, and nothing but the RX side changes at all. -/
def Obligations.RxFeedFrame : Prop :=
  ∀ (s t : State) (b : Byte), exec (.rxFeed b) s = .next t →
    (∀ a, a ≠ scratchIndex s → t.encBuf.read? a = s.encBuf.read? a) ∧
    t.encBuf.read? (scratchIndex s) = some b ∧
    (∀ a, ¬ StoresRaw b s a → t.rawBuf.read? a = s.rawBuf.read? a) ∧
    t.cfg = s.cfg ∧ t.rxIn = s.rxIn ∧ t.txIn = s.txIn ∧ t.txWork = s.txWork ∧ t.txResponses = s.txResponses ∧
    t.sinkOffers = s.sinkOffers ∧ t.sinkAnswers = s.sinkAnswers ∧ t.script = s.script

/-- R122 as a whole: in every state that meets the invariant RX_FEED completes, and on the observable Receive Context it does
what the decoder over plain lists does, with the same response. -/
def Obligations.RxFeedRefinesTheListDecoder : Prop :=
  ∀ (s : State) (v : RxView) (b : Byte), Inv s → Views s v →
    ∃ t, exec (.rxFeed b) s = .next t ∧ Views t (v.feed s.cfg b).1 ∧
      t.rxResponses = s.rxResponses ++ [(v.feed s.cfg b).2]

/-- R141: RX_FEED gives one response, `ST_OK` with no payload unless it completes a packet, and `ST_PACKET` exactly where it
does; no error status. -/
def Obligations.OnlyCompletionIsReported : Prop :=
  ∀ (s t : State) (b : Byte), exec (.rxFeed b) s = .next t →
    (t.ev ≠ .complete ∧ t.rxResponses = s.rxResponses ++ [{ status := .ok, payload := .empty }]) ∨
    (t.ev = .complete ∧ ∃ body, t.rxResponses = s.rxResponses ++ [{ status := .packet, payload := .data body }])

/-- R139, R140 and R143: a packet that is delivered has `declared_body_len` body bytes and fits `raw_buf`, so a packet whose
declared total exceeds RAW_CAP is never delivered. -/
def Obligations.DeliveredPacketHasTheDeclaredLength : Prop :=
  ∀ (s t : State) (b : Byte) (body : Bytes), exec (.rxFeed b) s = .next t →
    t.rxResponses = s.rxResponses ++ [{ status := .packet, payload := .data body }] →
      body.length = t.declaredBodyLen.toNat ∧ body.length + 4 ≤ t.cfg.rawCap

/-- 42_rx_decoder.md R147: a whole line that is no acceptable frame (text, or a malformed frame), fed where a line begins and no
longer than the scratch window, leaves the packet in progress as it was. -/
def Obligations.InterleavedLineLeavesThePacket : Prop :=
  ∀ (s : State) (line : Bytes), Inv s → s.encodedLen = 0 → 0x0A#8 ∉ line → line.length + 1 ≤ s.cfg.encCap →
    Malformed s.cfg.rawCap s.rawOffset line →
    ∃ t, feedAll (line ++ [0x0A#8]) s = .next t ∧ t.rawOffset = s.rawOffset ∧ t.rawBuf = s.rawBuf ∧
      t.declaredBodyLen = s.declaredBodyLen ∧ t.encodedLen = 0 ∧
      t.rxResponses = s.rxResponses ++ List.replicate (line.length + 1) { status := .ok, payload := .empty }

/-- 42_rx_decoder.md R150 and 43_tx_encoder.md R180: the worked example, in both directions. -/
def Obligations.WorkedExampleHolds : Prop :=
  crc16 [0x01#8, 0x02#8, 0x03#8, 0x04#8] = 0x0D03#16 ∧
  decodedStream [0x01#8, 0x02#8, 0x03#8, 0x04#8] =
    [0x00#8, 0x04#8, 0x01#8, 0x02#8, 0x03#8, 0x04#8, 0x0D#8, 0x03#8] ∧
  packetFrames 31 [0x01#8, 0x02#8, 0x03#8, 0x04#8] =
    [[0x06#8, 0x09#8, 0x41#8, 0x41#8, 0x51#8, 0x42#8, 0x41#8, 0x67#8, 0x4D#8, 0x45#8, 0x44#8, 0x51#8, 0x4D#8, 0x3D#8, 0x0A#8]] ∧
  ∃ t, feedAll [0x06#8, 0x09#8, 0x41#8, 0x41#8, 0x51#8, 0x42#8, 0x41#8, 0x67#8, 0x4D#8, 0x45#8, 0x44#8, 0x51#8, 0x4D#8,
      0x3D#8, 0x0A#8] State.reset = .next t ∧ t.rawOffset = 0 ∧ t.encodedLen = 0 ∧ t.declaredBodyLen = 0x0004#16 ∧
    t.rxResponses = List.replicate 14 { status := .ok, payload := .empty } ++
      [{ status := .packet, payload := .data [0x01#8, 0x02#8, 0x03#8, 0x04#8] }]

/-- 10_state.md R27 and R28: no rule reads a buffer byte at or above its offset. Two states that differ only in such bytes
take steps to states that differ only in such bytes: same responses, same everything else. -/
def Obligations.UnobservableBytesDoNotMatter : Prop :=
  ∀ s s' t : State, Inv s → Inv s' → SameObservable s s' → step s = .next t →
    ∃ t', step s' = .next t' ∧ SameObservable t t'

/-! ### The pure commands -/

/-- 40_crc16.md R91: CRC16 answers `ST_OK` with the CRC of its operand and changes nothing else. -/
def Obligations.Crc16CommandAnswersTheCrc : Prop :=
  ∀ (s : State) (data : Bytes), exec (.crc16 data) s = .next { s with
    txResponses := s.txResponses ++ [{ status := .ok, payload := .val16 (crc16 data) }] }

/-- 40_crc16.md R89: the CRC of a byte string followed by its own CRC, big-endian, is zero. -/
def Obligations.CrcOfStringAndItsCrcIsZero : Prop :=
  ∀ m : Bytes, crc16 (m ++ beBytes (crc16 m)) = 0#16

/-- 40_crc16.md R88: the byte-at-a-time table form gives the same register, with `TABLE[i] = CRC16([i])`. -/
def Obligations.CrcTableFormAgrees : Prop :=
  ∀ (m : Bytes) (b : Byte), crc16 (m ++ [b]) = (crc16 m <<< 8) ^^^ crc16 [hi8 (crc16 m) ^^^ b]

/-- 42_rx_decoder.md R148: the CRC detects every change within two adjacent bytes, wherever they stand in the string. -/
def Obligations.CrcDetectsAChangeOfTwoAdjacentBytes : Prop :=
  ∀ (front back : Bytes) (a b a' b' : Byte), a ≠ a' ∨ b ≠ b' →
    crc16 (front ++ [a, b] ++ back) ≠ crc16 (front ++ [a', b'] ++ back)

/-- 40_crc16.md R90 and R92: the corner values and the check value. -/
def Obligations.CrcCornerValues : Prop :=
  crc16 [] = 0x0000#16 ∧ (∀ n : Nat, crc16 (List.replicate n 0x00#8) = 0x0000#16) ∧ crc16 [0x01#8] = 0x1021#16 ∧
    crc16 [0x80#8] = 0x9188#16 ∧ crc16 [0xFF#8] = 0x1EF0#16 ∧
    (∀ n : Nat, beBytes (crc16 (List.replicate n 0x00#8)) = [0x00#8, 0x00#8]) ∧
    crc16 [0x31#8, 0x32#8, 0x33#8, 0x34#8, 0x35#8, 0x36#8, 0x37#8, 0x38#8, 0x39#8] = 0x31C3#16

/-- 41_base64.md R106, R108, R109: B64_ENCODE answers the text where it fits in CAP16 bytes, and otherwise `ST_ERR_CAP` with
the length the text needs, saturated at 65535; it changes nothing else. -/
def Obligations.B64EncodeCommandAnswers : Prop :=
  ∀ (s : State) (pad : Bool) (cap : U16) (data : Bytes),
    exec (.b64Encode pad cap data) s = .next { s with
      txResponses := s.txResponses ++
        [if (b64Enc pad data).length ≤ cap.toNat then { status := .ok, payload := .data (b64Enc pad data) }
         else { status := .errCap, payload := .val16 (BitVec.ofNat 16 (min (b64Enc pad data).length 65535)) }] }

/-- 41_base64.md R110, R112, R113: B64_DECODE answers `ST_ERR_B64` for a text that FAILs, whatever CAP16 is; else the bytes
where they fit in CAP16, and otherwise `ST_ERR_CAP` with their number; it changes nothing else. -/
def Obligations.B64DecodeCommandAnswers : Prop :=
  ∀ (s : State) (cap : U16) (data : Bytes),
    (b64Dec data = none → exec (.b64Decode cap data) s = .next { s with
      txResponses := s.txResponses ++ [{ status := .errB64, payload := .empty }] }) ∧
    (∀ r, b64Dec data = some r → r.length ≤ cap.toNat → exec (.b64Decode cap data) s = .next { s with
      txResponses := s.txResponses ++ [{ status := .ok, payload := .data r }] }) ∧
    (∀ r, b64Dec data = some r → cap.toNat < r.length → exec (.b64Decode cap data) s = .next { s with
      txResponses := s.txResponses ++ [{ status := .errCap, payload := .val16 (BitVec.ofNat 16 r.length) }] })

/-- 41_base64.md R114: B64_DECLEN answers `ST_ERR_B64` for a text that FAILs, and else the decoded length; it changes nothing
else. -/
def Obligations.B64DecLenCommandAnswers : Prop :=
  ∀ (s : State) (data : Bytes),
    (b64Dec data = none → exec (.b64DecLen data) s = .next { s with
      txResponses := s.txResponses ++ [{ status := .errB64, payload := .empty }] }) ∧
    (∀ r, b64Dec data = some r → exec (.b64DecLen data) s = .next { s with
      txResponses := s.txResponses ++ [{ status := .ok, payload := .val16 (BitVec.ofNat 16 r.length) }] })

/-- 41_base64.md R115: B64_DECLEN answers `ST_OK` with `n` exactly where there is a result of `n` bytes that B64_DECODE answers
at every CAP16 that is large enough, and at every smaller one B64_DECODE answers `ST_ERR_CAP` with `n`. -/
def Obligations.DecLenPredictsDecode : Prop :=
  ∀ (s : State) (data : Bytes) (n : U16), PayloadFits data →
    (exec (.b64DecLen data) s = .next { s with
        txResponses := s.txResponses ++ [{ status := .ok, payload := .val16 n }] } ↔
      ∃ r : Bytes, r.length = n.toNat ∧ ∀ cap : U16, exec (.b64Decode cap data) s = .next { s with
        txResponses := s.txResponses ++
          [if n.toNat ≤ cap.toNat then { status := .ok, payload := .data r }
           else { status := .errCap, payload := .val16 n }] })

/-- 41_base64.md R105: decoding undoes padded encoding, encoding undoes decoding, so two accepted texts with one result are
one text. -/
def Obligations.Base64CodecIsABijection : Prop :=
  (∀ d : Bytes, b64Dec (b64Enc true d) = some d) ∧
  (∀ t r : Bytes, b64Dec t = some r → b64Enc true r = t) ∧
  (∀ t t' r : Bytes, b64Dec t = some r → b64Dec t' = some r → t = t')

/-- 41_base64.md R99: the length of an encoding. -/
def Obligations.EncodedTextLength : Prop :=
  ∀ d : Bytes,
    (b64Enc true d).length = 4 * ((d.length + 2) / 3) ∧
    (b64Enc false d).length = 4 * (d.length / 3) + (if d.length % 3 = 0 then 0 else d.length % 3 + 1)

/-- 41_base64.md R104: the decoded length is `3*(|t|/4)` minus the number of `=` in the text. -/
def Obligations.DecodedLengthFormula : Prop :=
  ∀ (t : Bytes) (n : Nat), decLen t = some n → t.length % 4 = 0 ∧ n + t.count 0x3D#8 = 3 * (t.length / 4)

/-- 41_base64.md R100 to R103: a text is accepted exactly where it is whole groups of alphabet characters, with `=` only as the
last character or the last two, and the bits that a padded group does not use are zero: the low 2 of its third character's value,
or the low 4 of its second's. -/
def Obligations.AcceptedTextIsStrictBase64 : Prop :=
  ∀ t : Bytes, b64Dec t ≠ none ↔
    t.length % 4 = 0 ∧
    ∃ (body : Bytes) (pads : Nat), t = body ++ List.replicate pads 0x3D#8 ∧ pads ≤ 2 ∧ (∀ c ∈ body, b64Val c ≠ none) ∧
      (pads = 1 → ∃ c v, body.getLast? = some c ∧ b64Val c = some v ∧ v % 4 = 0) ∧
      (pads = 2 → ∃ c v, body.getLast? = some c ∧ b64Val c = some v ∧ v % 16 = 0)

/-! ### TX_PACKET -/

/-- 43_tx_encoder.md R160, R174 and 70_reset_and_hazards.md R224: TX_PACKET computes its working set and makes the first
frame's `Send`; by the sink's answer it goes on to the next frame, fails, or waits. Nothing else changes. That the first
`Send` is part of the command's own step is log entry 12. -/
def Obligations.TxPacketMakesItsFirstSend : Prop :=
  ∀ (s : State) (data : Bytes), PayloadFits data → Quiescent s →
    ∃ f, (packetFrames s.cfg.frameGroups data).head? = some f ∧
      exec (.txPacket data) s = .next (match s.sinkAnswers with
        | [] =>
          { s with
            sinkOffers := s.sinkOffers ++ [f]
            txWork := some { txLoad s.cfg.frameGroups data with phase := .waiting } }
        | .ok :: rest =>
          { s with
            sinkOffers := s.sinkOffers ++ [f]
            sinkAnswers := rest
            txWork := some { txLoad s.cfg.frameGroups data with next := 1 } }
        | .err e :: rest =>
          { s with
            sinkOffers := s.sinkOffers ++ [f]
            sinkAnswers := rest
            txWork := some { txLoad s.cfg.frameGroups data with phase := .failed e } })

/-- 43_tx_encoder.md R175, R176 and 20_memory.md R49: where the sink answers `Ok` to every frame, every frame is offered in
order and the response is `ST_OK`; where it answers `Err(e)` to frame `j`, frames `0..j` are offered, no later one, and the
response is `ST_ERR_SEND` with `e`. The working set is gone and nothing else has changed. -/
def Obligations.TxPacketRunsToItsResponse : Prop :=
  ∀ (s : State) (data : Bytes) (later : List SendAnswer), PayloadFits data → Quiescent s →
    (s.sinkAnswers = List.replicate (packetFrames s.cfg.frameGroups data).length .ok ++ later →
      ∃ t, exec (.txPacket data) s = .next t ∧
        txTurns (packetFrames s.cfg.frameGroups data).length t = .next { s with
          sinkOffers := s.sinkOffers ++ packetFrames s.cfg.frameGroups data
          sinkAnswers := later
          txResponses := s.txResponses ++ [{ status := .ok, payload := .empty }] }) ∧
    (∀ (j : Nat) (e : SinkErr), j < (packetFrames s.cfg.frameGroups data).length →
      s.sinkAnswers = List.replicate j .ok ++ .err e :: later →
      ∃ t, exec (.txPacket data) s = .next t ∧
        txTurns (j + 1) t = .next { s with
          sinkOffers := s.sinkOffers ++ (packetFrames s.cfg.frameGroups data).take (j + 1)
          sinkAnswers := later
          txResponses := s.txResponses ++ [{ status := .errSend, payload := .sinkErr e }] })

/-- From 43_tx_encoder.md R174 and R175: the answer to a frame that is offered and not yet answered is taken once it is there. No
frame is offered again; on `Ok` the next frame is the next to offer, on `Err(e)` the command has failed with `e`. That a late answer
is taken in a turn of its own, which offers no frame, is the model's choice (log entry 12; 70_reset_and_hazards.md R224 makes offer
and answer one step), and so is that it is the first of a list of answers (log entry 3). -/
def Obligations.LateAnswerIsTaken : Prop :=
  ∀ (s : State) (w : TxWork) (later : List SendAnswer), s.txWork = some w → w.phase = .waiting →
    (s.sinkAnswers = .ok :: later →
      txTurn s = .next { s with
        sinkAnswers := later
        txWork := some { w with next := w.next + 1, phase := .offering } }) ∧
    (∀ e, s.sinkAnswers = .err e :: later →
      txTurn s = .next { s with
        sinkAnswers := later
        txWork := some { w with phase := .failed e } })

/-- From 43_tx_encoder.md R174 to R176: TX_PACKET with a sink that answers late, each answer after any number of turns of the waiting
engine. Where every answer is `Ok`, every frame is offered once and in order and the next turn gives `ST_OK`; where the answer to
frame `j` is `Err(e)`, frames `0..j` are offered once, no later one, and the next turn gives `ST_ERR_SEND` with `e`. The working
set is gone and nothing else has changed. The turns that are counted (waiting turns after the offer, the answer taken in one later
turn, the response in the next) are the model's choice (log entries 3 and 12). -/
def Obligations.LateAnswersRunTxPacketToItsResponse : Prop :=
  ∀ (s : State) (data : Bytes) (waits : List Nat), PayloadFits data → Quiescent s → s.sinkAnswers = [] →
    (waits.length = (packetFrames s.cfg.frameGroups data).length →
      ∃ t u, exec (.txPacket data) s = .next t ∧ lateSends (waits.map fun n => (n, .ok)) t = .next u ∧
        txTurn u = .next { s with
          sinkOffers := s.sinkOffers ++ packetFrames s.cfg.frameGroups data
          txResponses := s.txResponses ++ [{ status := .ok, payload := .empty }] }) ∧
    (∀ (last : Nat) (e : SinkErr), waits.length < (packetFrames s.cfg.frameGroups data).length →
      ∃ t u, exec (.txPacket data) s = .next t ∧
        lateSends ((waits.map fun n => (n, .ok)) ++ [(last, .err e)]) t = .next u ∧
        txTurn u = .next { s with
          sinkOffers := s.sinkOffers ++ (packetFrames s.cfg.frameGroups data).take (waits.length + 1)
          txResponses := s.txResponses ++ [{ status := .errSend, payload := .sinkErr e }] })

/-- 70_reset_and_hazards.md R219: while the sink does not answer, the TX engine waits without limit and changes nothing. -/
def Obligations.SilentSinkHoldsTheTxEngine : Prop :=
  ∀ (s : State) (w : TxWork) (n : Nat), s.txWork = some w → w.phase = .waiting → s.sinkAnswers = [] →
    txTurns n s = .next s

/-- 43_tx_encoder.md R166: the texts of a packet's frames, in order, are the padded encoding of its decoded stream, and each
is a whole number of four-character groups. -/
def Obligations.FrameTextsAreTheEncodedStream : Prop :=
  ∀ (k : Nat) (data : Bytes), 2 ≤ k → PayloadFits data →
    ((splitGroups k data.length).map (frameText (decodedStream data))).flatten =
      b64Enc true (decodedStream data) ∧
    ∀ gs ∈ splitGroups k data.length, (frameText (decodedStream data) gs).length % 4 = 0

/-- 43_tx_encoder.md R172: each frame is its tag, the text of its groups and the newline; the first has the packet-start tag and
every other the continuation tag (R164, R165), and the newline occurs nowhere else in it (30_encoding.md R63). -/
def Obligations.FramesAreTaggedLines : Prop :=
  ∀ (k : Nat) (data : Bytes) (j : Nat) (f : Bytes), 2 ≤ k → (packetFrames k data)[j]? = some f →
    ∃ gs text, (splitGroups k data.length)[j]? = some gs ∧ text = frameText (decodedStream data) gs ∧
      f = (if j = 0 then [0x06#8, 0x09#8] else [0x04#8, 0x14#8]) ++ text ++ [0x0A#8] ∧ 0x0A#8 ∉ text

/-- 43_tx_encoder.md R170 and R171: a packet of `n` bytes has `ceil(G / K)` frames with `G = ceil((n + 4) / 3)`, each of 7 to
`2 + 4K + 1` bytes, within MAX_FRAME (00_scope.md R8, R11). -/
def Obligations.FrameCountAndLengths : Prop :=
  ∀ (k : Nat) (data : Bytes), 2 ≤ k → k ≤ 31 → PayloadFits data →
    (packetFrames k data).length = ((data.length + 4 + 2) / 3 + (k - 1)) / k ∧
    ∀ f ∈ packetFrames k data, 7 ≤ f.length ∧ f.length ≤ 2 + 4 * k + 1 ∧ f.length ≤ maxFrame

/-- 43_tx_encoder.md R168 and R169: the groups are placed in order, at most `K` a frame, and every group from the one that
holds the CRC's high byte on is in the final frame. -/
def Obligations.CrcGroupsShareTheFinalFrame : Prop :=
  ∀ k n : Nat, 2 ≤ k →
    (splitGroups k n).flatten = List.range ((n + 4 + 2) / 3) ∧
    (∀ gs ∈ splitGroups k n, gs ≠ [] ∧ gs.length ≤ k) ∧
    ∃ first final, splitGroups k n = first ++ [final] ∧
      ∀ i, (n + 2) / 3 ≤ i → i < (n + 4 + 2) / 3 → i ∈ final

/-- 43_tx_encoder.md R169 and R170: how many groups each frame before the final one holds: `K`, but `K - 1` in the frame just before
the final one where two groups bear the CRC (`n mod 3 = 0`) and the number of groups is one more than a multiple of `K`. The final
frame holds the rest, so with the groups in order (CrcGroupsShareTheFinalFrame) this is the whole split. -/
def Obligations.FramesBeforeTheFinalOneAreFull : Prop :=
  ∀ (k n j : Nat) (gs : List Nat), 2 ≤ k → (splitGroups k n)[j]? = some gs → j + 1 < (splitGroups k n).length →
    gs.length =
      if n % 3 = 0 ∧ ((n + 4 + 2) / 3) % k = 1 ∧ j + 2 = (splitGroups k n).length then k - 1 else k

/-- 43_tx_encoder.md R177: an empty body is one frame, `06 09 "AAAAAA==" 0A`. -/
def Obligations.EmptyBodyIsOneFrame : Prop :=
  ∀ k : Nat, 2 ≤ k → packetFrames k [] =
    [[0x06#8, 0x09#8, 0x41#8, 0x41#8, 0x41#8, 0x41#8, 0x41#8, 0x41#8, 0x3D#8, 0x3D#8, 0x0A#8]]

/-- 60_exceptions.md R191: a turn whose response has an error status changes no state of the block: not the Receive Context,
not the build parameters. A TX_PACKET that ends with `ST_ERR_SEND` leaves no working set. -/
def Obligations.ErrorStatusChangesNoState : Prop :=
  (∀ (s t : State) (r : Response), rxTurn s = .next t → t.rxResponses = s.rxResponses ++ [r] → r.status.isError = true →
    t = { s with rxIn := t.rxIn, rxUntaken := t.rxUntaken, rxResponses := t.rxResponses }) ∧
  (∀ (s t : State) (r : Response), txTurn s = .next t → t.txResponses = s.txResponses ++ [r] → r.status.isError = true →
    t = { s with txIn := t.txIn, txWork := none, txResponses := t.txResponses })

/-- 43_tx_encoder.md R179: the round trip. The frames TX_PACKET sends for a body, fed byte by byte to an RX engine with an
empty scratch window and capacities that hold them, answer `ST_PACKET` with the body at the last byte and `ST_OK` before. -/
def Obligations.TransmittedPacketIsDelivered : Prop :=
  ∀ (s : State) (k : Nat) (data : Bytes), Inv s → s.encodedLen = 0 → 2 ≤ k → k ≤ 31 → PayloadFits data →
    2 + 4 * k + 1 ≤ s.cfg.encCap → data.length + 4 ≤ s.cfg.rawCap →
    ∃ t, feedAll (packetFrames k data).flatten s = .next t ∧ t.rawOffset = 0 ∧ t.encodedLen = 0 ∧
      t.rxResponses = s.rxResponses ++
        List.replicate ((packetFrames k data).flatten.length - 1) { status := .ok, payload := .empty } ++
        [{ status := .packet, payload := .data data }]

/-! ### The invariant -/

/-- 10_state.md R27 to R29 and 20_memory.md R41: reset meets the invariant. -/
def Obligations.ResetMeetsTheInvariant : Prop := Inv State.reset

/-- Every step keeps the invariant: buffers canonical and within their capacities, every byte below an offset written, no
newline in the scratch window, the offsets in the ranges of R29, and the TX working set that of a packet. -/
def Obligations.EveryStepKeepsTheInvariant : Prop :=
  ∀ s t : State, Inv s → step s = .next t → Inv t

/-- 60_exceptions.md R196 and 20_memory.md R41: no step stops. There is no fault that stops the block and no state from which a
later command is refused. -/
def Obligations.NoStepStops : Prop :=
  ∀ s : State, Inv s → ∃ t, step s = .next t

/-- 10_state.md R36: no command and no move writes the build parameters. -/
def Obligations.BuildParametersNeverChange : Prop :=
  ∀ s t : State, step s = .next t → t.cfg = s.cfg

/-- 10_state.md section 2: `raw_offset` fits 17 bits and `encoded_len` the `ceil(log2(ENC_CAP + 1))` bits of its register. -/
def Obligations.CountersFitTheirRegisters : Prop :=
  ∀ s : State, Inv s → s.rawOffset < 2 ^ 17 ∧ s.encodedLen < 2 ^ Nat.clog 2 (s.cfg.encCap + 1)
end

