-- ==== Sys2Proof/Laws/Base64.lean ====
section
/-!
SUPPORT. The alphabet's two functions undo each other, and the bit fields of a 24-bit value.
-/

namespace Sys2Proof.Machine

/-- `val(chr(v)) = v` (R96). -/
theorem b64Val_b64Chr : ∀ v : Nat, v < 64 → b64Val (b64Chr v) = some v := by
  decide

/-- Only an alphabet character has a value, and it is below 64 (R96). -/
theorem b64Val_lt {c : Byte} {v : Nat} (h : b64Val c = some v) : v < 64 := by
  unfold b64Val at h
  dsimp only at h
  split_ifs at h <;> simp only [Option.some.injEq] at h <;> omega

/-- `chr(val(c)) = c` (R96). -/
theorem b64Chr_b64Val {c : Byte} {v : Nat} (h : b64Val c = some v) : b64Chr v = c := by
  unfold b64Val at h
  dsimp only at h
  apply BitVec.eq_of_toNat_eq
  split_ifs at h with h1 h2 h3 h4 h5 <;> simp only [Option.some.injEq] at h <;> subst h <;> unfold b64Chr
  · rw [if_pos (by omega), BitVec.toNat_ofNat]; omega
  · rw [if_neg (by omega), if_pos (by omega), BitVec.toNat_ofNat]; omega
  · rw [if_neg (by omega), if_neg (by omega), if_pos (by omega), BitVec.toNat_ofNat]; omega
  · simpa using h4.symm
  · simpa using h5.symm

/-- The pad character is not in the alphabet (R96). -/
theorem b64Val_b64Pad : b64Val b64Pad = none := by decide

/-- Neither is the newline (30_encoding.md R63). -/
theorem b64Val_newline : b64Val 0x0A#8 = none := by decide

theorem bitField_lt (v hi lo : Nat) : bitField v hi lo < 2 ^ (hi + 1 - lo) := Nat.mod_lt _ (by positivity)

/-- A group decodes to at most three bytes (R100). -/
theorem b64DecGroup_length {last : Bool} {c0 c1 c2 c3 : Byte} {g : Bytes}
    (h : b64DecGroup last c0 c1 c2 c3 = some g) : g.length ≤ 3 := by
  unfold b64DecGroup at h
  split at h
  · unfold b64DecTail at h
    dsimp only at h
    split at h
    · cases h; simp
    · split_ifs at h; cases h; simp
    · split_ifs at h; cases h; simp
  · cases h

/-- A decoded text has at most three bytes for each four characters (R104). -/
theorem b64Dec_length : ∀ (t r : Bytes), b64Dec t = some r → r.length ≤ 3 * (t.length / 4)
  | [], _, h => by cases h; simp
  | [_], _, h => by cases h
  | [_, _], _, h => by cases h
  | [_, _, _], _, h => by cases h
  | c0 :: c1 :: c2 :: c3 :: rest, r, h => by
    unfold b64Dec at h
    split at h
    · cases h
    · next g hg =>
      split at h
      · cases h
      · next out ho =>
        cases h
        have h1 := b64DecGroup_length hg
        have h2 := b64Dec_length rest out ho
        simp only [List.length_append, List.length_cons]
        omega

end Sys2Proof.Machine
end

