-- ==== Sys2Proof/Laws/Bits.lean ====
section
/-!
SUPPORT. The big-endian helpers undo each other, and an operand field or payload reads back as it was written.
-/

namespace Sys2Proof.Machine

theorem be16_toNat (h l : Byte) : (be16 h l).toNat = h.toNat * 256 + l.toNat := by
  have := h.isLt
  have := l.isLt
  simp only [be16, BitVec.toNat_ofNat]
  omega

theorem hi8_toNat (v : U16) : (hi8 v).toNat = v.toNat / 256 := by
  have := v.isLt
  simp only [hi8, BitVec.extractLsb'_toNat, Nat.shiftRight_eq_div_pow]
  omega

theorem lo8_toNat (v : U16) : (lo8 v).toNat = v.toNat % 256 := by
  simp [lo8, BitVec.extractLsb'_toNat]

@[simp] theorem be16_hi8_lo8 (v : U16) : be16 (hi8 v) (lo8 v) = v := by
  apply BitVec.eq_of_toNat_eq
  rw [be16_toNat, hi8_toNat, lo8_toNat]
  omega

@[simp] theorem hi8_be16 (h l : Byte) : hi8 (be16 h l) = h := by
  apply BitVec.eq_of_toNat_eq
  have := l.isLt
  rw [hi8_toNat, be16_toNat]
  omega

@[simp] theorem lo8_be16 (h l : Byte) : lo8 (be16 h l) = l := by
  apply BitVec.eq_of_toNat_eq
  have := l.isLt
  rw [lo8_toNat, be16_toNat]
  omega

/-- Two 16-bit values with the same bytes are the same. -/
theorem be16_inj {h l h' l' : Byte} : be16 h l = be16 h' l' ↔ h = h' ∧ l = l' := by
  constructor
  · intro e
    have h1 := congrArg hi8 e
    have h2 := congrArg lo8 e
    simp only [hi8_be16, lo8_be16] at h1 h2
    exact ⟨h1, h2⟩
  · rintro ⟨rfl, rfl⟩
    rfl

theorem u16OfNat_toNat {n : Nat} (h : n ≤ 65535) : (u16OfNat n).toNat = n := by
  simp only [u16OfNat, BitVec.toNat_ofNat]
  omega

/-- A 16-bit field reads back as it was written (R67). -/
@[simp] theorem takeField_beBytes (v : U16) (rest : Bytes) : takeField (beBytes v ++ rest) = some (v, rest) := by
  simp [takeField, beBytes]

/-- Where a field is read, its two bytes stood at the front. -/
theorem takeField_eq_some {bs rest : Bytes} {v : U16} (h : takeField bs = some (v, rest)) : bs = beBytes v ++ rest := by
  unfold takeField at h
  split at h
  · simp only [Option.some.injEq, Prod.mk.injEq] at h
    obtain ⟨rfl, rfl⟩ := h
    simp [beBytes]
  · exact absurd h (by simp)

/-- A payload reads back as it was written (R68). -/
theorem takePayload_payloadBytes (data rest : Bytes) (h : data.length ≤ 65535) :
    takePayload (payloadBytes data ++ rest) = some (data, rest) := by
  simp [takePayload, payloadBytes, List.append_assoc, u16OfNat_toNat h]

/-- Where a payload is read, LEN16 and as many bytes stood at the front. -/
theorem takePayload_eq_some {bs data rest : Bytes} (h : takePayload bs = some (data, rest)) :
    data.length ≤ 65535 ∧ bs = payloadBytes data ++ rest := by
  unfold takePayload at h
  split at h
  · exact absurd h (by simp)
  · next n tail hf =>
    split at h
    · next hn =>
      simp only [Option.some.injEq, Prod.mk.injEq] at h
      obtain ⟨rfl, rfl⟩ := h
      have hl : (tail.take n.toNat).length = n.toNat := by simp; omega
      have := n.isLt
      refine ⟨by omega, ?_⟩
      rw [takeField_eq_some hf, payloadBytes, hl]
      simp [u16OfNat, List.append_assoc]
    · exact absurd h (by simp)

theorem takeCapPayload_payloadBytes (cap : U16) (data rest : Bytes) (h : data.length ≤ 65535) :
    takeCapPayload (beBytes cap ++ payloadBytes data ++ rest) = some (cap, data, rest) := by
  simp [takeCapPayload, List.append_assoc, takePayload_payloadBytes data rest h]

theorem takeCapPayload_eq_some {bs data rest : Bytes} {cap : U16} (h : takeCapPayload bs = some (cap, data, rest)) :
    data.length ≤ 65535 ∧ bs = beBytes cap ++ payloadBytes data ++ rest := by
  unfold takeCapPayload at h
  split at h
  · exact absurd h (by simp)
  · next hf =>
    split at h
    · exact absurd h (by simp)
    · next hp =>
      simp only [Option.some.injEq, Prod.mk.injEq] at h
      obtain ⟨rfl, rfl, rfl⟩ := h
      obtain ⟨hl, hp⟩ := takePayload_eq_some hp
      refine ⟨hl, ?_⟩
      rw [takeField_eq_some hf, hp, List.append_assoc]

end Sys2Proof.Machine
end

