-- ==== Sys2Proof/Laws/Memory.lean ====
section
/-!
SUPPORT. The laws of a buffer's cells: read after write, canonical form, and blocks of bytes.
-/

namespace Sys2Proof.Machine

namespace Memory

@[simp] theorem read?_nil (a : Nat) : Memory.read? [] a = none := rfl

/-- A read after a write to the same index gives the byte written. -/
@[simp] theorem read?_write_same (m : Memory) (a : Nat) (b : Byte) : (m.write a b).read? a = some b := by
  induction m with
  | nil => simp [write, read?]
  | cons c m ih =>
    unfold write
    split
    · next h => simp [read?, Nat.ne_of_lt h, ih]
    · split <;> simp [read?]

/-- A write leaves every other index alone. -/
theorem read?_write_other (m : Memory) {a a' : Nat} (b : Byte) (h : a' ≠ a) :
    (m.write a b).read? a' = m.read? a' := by
  induction m with
  | nil => simp [write, read?, h.symm]
  | cons c m ih =>
    unfold write
    split
    · simp [read?, ih]
    · split
      · next _ hc => simp [read?, h.symm, show ¬ c.1 = a' by omega]
      · simp [read?, h.symm]

/-- Reading a buffer after one write. -/
theorem read?_write (m : Memory) (a a' : Nat) (b : Byte) :
    (m.write a b).read? a' = if a' = a then some b else m.read? a' := by
  split
  · next h => rw [h, read?_write_same]
  · next h => exact read?_write_other m b h

/-! ### Canonical form -/

theorem above_write (m : Memory) {a x : Nat} (b : Byte) (hx : x < a) (h : above x m = true) :
    above x (m.write a b) = true := by
  induction m with
  | nil => simp [write, above, hx]
  | cons c m ih =>
    simp only [above, Bool.and_eq_true, decide_eq_true_eq] at h
    unfold write
    split
    · simp [above, h.1, ih h.2]
    · split <;> simp [above, hx, h.1, h.2]

theorem above_mono (m : Memory) {x y : Nat} (h : x ≤ y) (hy : above y m = true) : above x m = true := by
  induction m with
  | nil => rfl
  | cons c m ih =>
    simp only [above, Bool.and_eq_true, decide_eq_true_eq] at hy ⊢
    exact ⟨by omega, ih hy.2⟩

/-- A write keeps the canonical form. -/
theorem write_wf (m : Memory) (a : Nat) (b : Byte) (h : m.wf = true) : (m.write a b).wf = true := by
  induction m with
  | nil => rfl
  | cons c m ih =>
    simp only [wf, Bool.and_eq_true] at h
    unfold write
    split
    · next hc => simp [wf, above_write m b hc h.1, ih h.2]
    · split
      · next hc => simpa [wf, ← hc] using h
      · next h1 h2 =>
        have h3 : a < c.1 := by omega
        simp only [wf, above, Bool.and_eq_true, decide_eq_true_eq]
        exact ⟨⟨h3, above_mono m h3.le h.1⟩, h⟩

/-- A write below the capacity stays within it. -/
theorem write_within (m : Memory) {a cap : Nat} (b : Byte) (ha : a < cap) (h : m.within cap = true) :
    (m.write a b).within cap = true := by
  induction m with
  | nil => simp [write, within, ha]
  | cons c m ih =>
    simp only [within, Bool.and_eq_true, decide_eq_true_eq] at h
    unfold write
    split
    · simp [within, h.1, ih h.2]
    · split <;> simp [within, ha, h.1, h.2]

/-! ### Blocks of bytes -/

theorem writeBytes_wf (bs : Bytes) : ∀ (m : Memory) (a : Nat), m.wf = true → (m.writeBytes a bs).wf = true := by
  induction bs with
  | nil => exact fun _ _ h => h
  | cons b bs ih => exact fun m a h => ih _ _ (write_wf m a b h)

theorem writeBytes_within (bs : Bytes) : ∀ (m : Memory) (a cap : Nat), a + bs.length ≤ cap → m.within cap = true →
    (m.writeBytes a bs).within cap = true := by
  induction bs with
  | nil => exact fun _ _ _ _ h => h
  | cons b bs ih =>
    intro m a cap hc h
    simp only [List.length_cons] at hc
    exact ih _ _ _ (by omega) (write_within m b (by omega) h)

/-- A block write leaves every index outside the block alone. -/
theorem read?_writeBytes_outside (bs : Bytes) : ∀ (m : Memory) (a x : Nat), ¬ (a ≤ x ∧ x < a + bs.length) →
    (m.writeBytes a bs).read? x = m.read? x := by
  induction bs with
  | nil => exact fun _ _ _ _ => rfl
  | cons b bs ih =>
    intro m a x h
    simp only [List.length_cons] at h
    rw [writeBytes, ih _ _ _ (by omega), read?_write_other m b (by omega)]

/-- A read of a block depends on the bytes of the block alone. -/
theorem readBytes_congr (n : Nat) : ∀ (m m' : Memory) (a : Nat), (∀ x, a ≤ x → x < a + n → m.read? x = m'.read? x) →
    m.readBytes a n = m'.readBytes a n := by
  induction n with
  | zero => exact fun _ _ _ _ => rfl
  | succ n ih =>
    intro m m' a h
    simp only [readBytes]
    rw [h a (by omega) (by omega), ih m m' (a + 1) fun x h1 h2 => h x (by omega) (by omega)]

/-- A read after a block write of the same block gives the bytes written. -/
theorem readBytes_writeBytes (bs : Bytes) : ∀ (m : Memory) (a : Nat),
    (m.writeBytes a bs).readBytes a bs.length = some bs := by
  induction bs with
  | nil => exact fun _ _ => rfl
  | cons b bs ih =>
    intro m a
    simp only [writeBytes, List.length_cons, readBytes, ih]
    rw [read?_writeBytes_outside _ _ _ _ (by omega), read?_write_same]

/-- A block read has the length asked for. -/
theorem readBytes_length (n : Nat) : ∀ (m : Memory) (a : Nat) (bs : Bytes), m.readBytes a n = some bs →
    bs.length = n := by
  induction n with
  | zero => simp [readBytes]
  | succ n ih =>
    intro m a bs h
    simp only [readBytes] at h
    split at h
    · exact absurd h (by simp)
    · split at h
      · exact absurd h (by simp)
      · next bs' hb =>
        obtain rfl : _ = bs := by simpa using h
        simp [ih _ _ _ hb]

/-- A block read in two parts. -/
theorem readBytes_add (n k : Nat) : ∀ (m : Memory) (a : Nat) (bs cs : Bytes), m.readBytes a n = some bs →
    m.readBytes (a + n) k = some cs → m.readBytes a (n + k) = some (bs ++ cs) := by
  induction n with
  | zero =>
    intro m a bs cs h h'
    obtain rfl : [] = bs := by simpa [readBytes] using h
    simpa using h'
  | succ n ih =>
    intro m a bs cs h h'
    simp only [readBytes] at h
    split at h
    · exact absurd h (by simp)
    · next b hb =>
      split at h
      · exact absurd h (by simp)
      · next bs' hbs =>
        obtain rfl : b :: bs' = bs := by simpa using h
        rw [Nat.add_right_comm, readBytes, hb]
        simp [ih m (a + 1) bs' cs hbs (by rwa [show a + 1 + n = a + (n + 1) by omega])]

/-- A part of a block that can be read. -/
theorem readBytes_drop_take (n : Nat) : ∀ (m : Memory) (a i k : Nat) (bs : Bytes), m.readBytes a n = some bs →
    i + k ≤ n → m.readBytes (a + i) k = some ((bs.drop i).take k) := by
  induction n with
  | zero =>
    intro m a i k bs _ hk
    obtain ⟨rfl, rfl⟩ : i = 0 ∧ k = 0 := by omega
    simp [readBytes]
  | succ n ih =>
    intro m a i k bs h hk
    simp only [readBytes] at h
    split at h
    · exact absurd h (by simp)
    · next b hb =>
      split at h
      · exact absurd h (by simp)
      · next bs' hbs =>
        obtain rfl : b :: bs' = bs := by simpa using h
        cases i with
        | zero =>
          cases k with
          | zero => rfl
          | succ k =>
            have := ih m (a + 1) 0 k bs' hbs (by omega)
            simp only [Nat.add_zero, List.drop_zero] at this
            simp [readBytes, hb, this]
        | succ i =>
          have := ih m (a + 1) i k bs' hbs (by omega)
          rw [show a + (i + 1) = a + 1 + i by omega]
          simpa using this

end Memory

end Sys2Proof.Machine
end

