-- ==== Sys2Proof/Laws/State.lean ====
section
/-!
SUPPORT. One lemma per field per named update of the state, each true by rfl, so that no proof unfolds a record update.
-/

namespace Sys2Proof.Machine

variable (s : State)

@[simp] theorem State.encodedOffset_eq : s.encodedOffset = 0 := rfl


/-! ### `respondRx` -/

@[simp] theorem State.respondRx_cfg (r : Response) : (s.respondRx r).cfg = s.cfg := rfl
@[simp] theorem State.respondRx_rawOffset (r : Response) : (s.respondRx r).rawOffset = s.rawOffset := rfl
@[simp] theorem State.respondRx_rawBuf (r : Response) : (s.respondRx r).rawBuf = s.rawBuf := rfl
@[simp] theorem State.respondRx_encodedLen (r : Response) : (s.respondRx r).encodedLen = s.encodedLen := rfl
@[simp] theorem State.respondRx_encBuf (r : Response) : (s.respondRx r).encBuf = s.encBuf := rfl
@[simp] theorem State.respondRx_declaredBodyLen (r : Response) : (s.respondRx r).declaredBodyLen = s.declaredBodyLen := rfl
@[simp] theorem State.respondRx_ev (r : Response) : (s.respondRx r).ev = s.ev := rfl
@[simp] theorem State.respondRx_ovf (r : Response) : (s.respondRx r).ovf = s.ovf := rfl
@[simp] theorem State.respondRx_rxIn (r : Response) : (s.respondRx r).rxIn = s.rxIn := rfl
@[simp] theorem State.respondRx_rxUntaken (r : Response) : (s.respondRx r).rxUntaken = true := rfl
@[simp] theorem State.respondRx_rxResponses (r : Response) : (s.respondRx r).rxResponses = s.rxResponses ++ [r] := rfl
@[simp] theorem State.respondRx_txIn (r : Response) : (s.respondRx r).txIn = s.txIn := rfl
@[simp] theorem State.respondRx_txWork (r : Response) : (s.respondRx r).txWork = s.txWork := rfl
@[simp] theorem State.respondRx_txResponses (r : Response) : (s.respondRx r).txResponses = s.txResponses := rfl
@[simp] theorem State.respondRx_sinkOffers (r : Response) : (s.respondRx r).sinkOffers = s.sinkOffers := rfl
@[simp] theorem State.respondRx_sinkAnswers (r : Response) : (s.respondRx r).sinkAnswers = s.sinkAnswers := rfl
@[simp] theorem State.respondRx_script (r : Response) : (s.respondRx r).script = s.script := rfl

/-! ### `respondTx` -/

@[simp] theorem State.respondTx_cfg (r : Response) : (s.respondTx r).cfg = s.cfg := rfl
@[simp] theorem State.respondTx_rawOffset (r : Response) : (s.respondTx r).rawOffset = s.rawOffset := rfl
@[simp] theorem State.respondTx_rawBuf (r : Response) : (s.respondTx r).rawBuf = s.rawBuf := rfl
@[simp] theorem State.respondTx_encodedLen (r : Response) : (s.respondTx r).encodedLen = s.encodedLen := rfl
@[simp] theorem State.respondTx_encBuf (r : Response) : (s.respondTx r).encBuf = s.encBuf := rfl
@[simp] theorem State.respondTx_declaredBodyLen (r : Response) : (s.respondTx r).declaredBodyLen = s.declaredBodyLen := rfl
@[simp] theorem State.respondTx_ev (r : Response) : (s.respondTx r).ev = s.ev := rfl
@[simp] theorem State.respondTx_ovf (r : Response) : (s.respondTx r).ovf = s.ovf := rfl
@[simp] theorem State.respondTx_rxIn (r : Response) : (s.respondTx r).rxIn = s.rxIn := rfl
@[simp] theorem State.respondTx_rxUntaken (r : Response) : (s.respondTx r).rxUntaken = s.rxUntaken := rfl
@[simp] theorem State.respondTx_rxResponses (r : Response) : (s.respondTx r).rxResponses = s.rxResponses := rfl
@[simp] theorem State.respondTx_txIn (r : Response) : (s.respondTx r).txIn = s.txIn := rfl
@[simp] theorem State.respondTx_txWork (r : Response) : (s.respondTx r).txWork = s.txWork := rfl
@[simp] theorem State.respondTx_txResponses (r : Response) : (s.respondTx r).txResponses = s.txResponses ++ [r] := rfl
@[simp] theorem State.respondTx_sinkOffers (r : Response) : (s.respondTx r).sinkOffers = s.sinkOffers := rfl
@[simp] theorem State.respondTx_sinkAnswers (r : Response) : (s.respondTx r).sinkAnswers = s.sinkAnswers := rfl
@[simp] theorem State.respondTx_script (r : Response) : (s.respondTx r).script = s.script := rfl

/-! ### `finishRx` -/

@[simp] theorem State.finishRx_cfg (e : GhostEvent) (r : Response) : (s.finishRx e r).cfg = s.cfg := rfl
@[simp] theorem State.finishRx_rawOffset (e : GhostEvent) (r : Response) : (s.finishRx e r).rawOffset = s.rawOffset := rfl
@[simp] theorem State.finishRx_rawBuf (e : GhostEvent) (r : Response) : (s.finishRx e r).rawBuf = s.rawBuf := rfl
@[simp] theorem State.finishRx_encodedLen (e : GhostEvent) (r : Response) : (s.finishRx e r).encodedLen = s.encodedLen := rfl
@[simp] theorem State.finishRx_encBuf (e : GhostEvent) (r : Response) : (s.finishRx e r).encBuf = s.encBuf := rfl
@[simp] theorem State.finishRx_declaredBodyLen (e : GhostEvent) (r : Response) : (s.finishRx e r).declaredBodyLen = s.declaredBodyLen := rfl
@[simp] theorem State.finishRx_ev (e : GhostEvent) (r : Response) : (s.finishRx e r).ev = e := rfl
@[simp] theorem State.finishRx_ovf (e : GhostEvent) (r : Response) : (s.finishRx e r).ovf = s.ovf := rfl
@[simp] theorem State.finishRx_rxIn (e : GhostEvent) (r : Response) : (s.finishRx e r).rxIn = s.rxIn := rfl
@[simp] theorem State.finishRx_rxUntaken (e : GhostEvent) (r : Response) : (s.finishRx e r).rxUntaken = true := rfl
@[simp] theorem State.finishRx_rxResponses (e : GhostEvent) (r : Response) : (s.finishRx e r).rxResponses = s.rxResponses ++ [r] := rfl
@[simp] theorem State.finishRx_txIn (e : GhostEvent) (r : Response) : (s.finishRx e r).txIn = s.txIn := rfl
@[simp] theorem State.finishRx_txWork (e : GhostEvent) (r : Response) : (s.finishRx e r).txWork = s.txWork := rfl
@[simp] theorem State.finishRx_txResponses (e : GhostEvent) (r : Response) : (s.finishRx e r).txResponses = s.txResponses := rfl
@[simp] theorem State.finishRx_sinkOffers (e : GhostEvent) (r : Response) : (s.finishRx e r).sinkOffers = s.sinkOffers := rfl
@[simp] theorem State.finishRx_sinkAnswers (e : GhostEvent) (r : Response) : (s.finishRx e r).sinkAnswers = s.sinkAnswers := rfl
@[simp] theorem State.finishRx_script (e : GhostEvent) (r : Response) : (s.finishRx e r).script = s.script := rfl

/-! ### `clearContext` -/

@[simp] theorem State.clearContext_cfg : (s.clearContext).cfg = s.cfg := rfl
@[simp] theorem State.clearContext_rawOffset : (s.clearContext).rawOffset = 0 := rfl
@[simp] theorem State.clearContext_rawBuf : (s.clearContext).rawBuf = s.rawBuf := rfl
@[simp] theorem State.clearContext_encodedLen : (s.clearContext).encodedLen = 0 := rfl
@[simp] theorem State.clearContext_encBuf : (s.clearContext).encBuf = s.encBuf := rfl
@[simp] theorem State.clearContext_declaredBodyLen : (s.clearContext).declaredBodyLen = 0#16 := rfl
@[simp] theorem State.clearContext_ev : (s.clearContext).ev = s.ev := rfl
@[simp] theorem State.clearContext_ovf : (s.clearContext).ovf = s.ovf := rfl
@[simp] theorem State.clearContext_rxIn : (s.clearContext).rxIn = s.rxIn := rfl
@[simp] theorem State.clearContext_rxUntaken : (s.clearContext).rxUntaken = s.rxUntaken := rfl
@[simp] theorem State.clearContext_rxResponses : (s.clearContext).rxResponses = s.rxResponses := rfl
@[simp] theorem State.clearContext_txIn : (s.clearContext).txIn = s.txIn := rfl
@[simp] theorem State.clearContext_txWork : (s.clearContext).txWork = s.txWork := rfl
@[simp] theorem State.clearContext_txResponses : (s.clearContext).txResponses = s.txResponses := rfl
@[simp] theorem State.clearContext_sinkOffers : (s.clearContext).sinkOffers = s.sinkOffers := rfl
@[simp] theorem State.clearContext_sinkAnswers : (s.clearContext).sinkAnswers = s.sinkAnswers := rfl
@[simp] theorem State.clearContext_script : (s.clearContext).script = s.script := rfl

/-! ### `endPacket` -/

@[simp] theorem State.endPacket_cfg : (s.endPacket).cfg = s.cfg := rfl
@[simp] theorem State.endPacket_rawOffset : (s.endPacket).rawOffset = 0 := rfl
@[simp] theorem State.endPacket_rawBuf : (s.endPacket).rawBuf = s.rawBuf := rfl
@[simp] theorem State.endPacket_encodedLen : (s.endPacket).encodedLen = s.encodedLen := rfl
@[simp] theorem State.endPacket_encBuf : (s.endPacket).encBuf = s.encBuf := rfl
@[simp] theorem State.endPacket_declaredBodyLen : (s.endPacket).declaredBodyLen = s.declaredBodyLen := rfl
@[simp] theorem State.endPacket_ev : (s.endPacket).ev = s.ev := rfl
@[simp] theorem State.endPacket_ovf : (s.endPacket).ovf = s.ovf := rfl
@[simp] theorem State.endPacket_rxIn : (s.endPacket).rxIn = s.rxIn := rfl
@[simp] theorem State.endPacket_rxUntaken : (s.endPacket).rxUntaken = s.rxUntaken := rfl
@[simp] theorem State.endPacket_rxResponses : (s.endPacket).rxResponses = s.rxResponses := rfl
@[simp] theorem State.endPacket_txIn : (s.endPacket).txIn = s.txIn := rfl
@[simp] theorem State.endPacket_txWork : (s.endPacket).txWork = s.txWork := rfl
@[simp] theorem State.endPacket_txResponses : (s.endPacket).txResponses = s.txResponses := rfl
@[simp] theorem State.endPacket_sinkOffers : (s.endPacket).sinkOffers = s.sinkOffers := rfl
@[simp] theorem State.endPacket_sinkAnswers : (s.endPacket).sinkAnswers = s.sinkAnswers := rfl
@[simp] theorem State.endPacket_script : (s.endPacket).script = s.script := rfl

/-! ### `endTxPacket` -/

@[simp] theorem State.endTxPacket_cfg (r : Response) : (s.endTxPacket r).cfg = s.cfg := rfl
@[simp] theorem State.endTxPacket_rawOffset (r : Response) : (s.endTxPacket r).rawOffset = s.rawOffset := rfl
@[simp] theorem State.endTxPacket_rawBuf (r : Response) : (s.endTxPacket r).rawBuf = s.rawBuf := rfl
@[simp] theorem State.endTxPacket_encodedLen (r : Response) : (s.endTxPacket r).encodedLen = s.encodedLen := rfl
@[simp] theorem State.endTxPacket_encBuf (r : Response) : (s.endTxPacket r).encBuf = s.encBuf := rfl
@[simp] theorem State.endTxPacket_declaredBodyLen (r : Response) : (s.endTxPacket r).declaredBodyLen = s.declaredBodyLen := rfl
@[simp] theorem State.endTxPacket_ev (r : Response) : (s.endTxPacket r).ev = s.ev := rfl
@[simp] theorem State.endTxPacket_ovf (r : Response) : (s.endTxPacket r).ovf = s.ovf := rfl
@[simp] theorem State.endTxPacket_rxIn (r : Response) : (s.endTxPacket r).rxIn = s.rxIn := rfl
@[simp] theorem State.endTxPacket_rxUntaken (r : Response) : (s.endTxPacket r).rxUntaken = s.rxUntaken := rfl
@[simp] theorem State.endTxPacket_rxResponses (r : Response) : (s.endTxPacket r).rxResponses = s.rxResponses := rfl
@[simp] theorem State.endTxPacket_txIn (r : Response) : (s.endTxPacket r).txIn = s.txIn := rfl
@[simp] theorem State.endTxPacket_txWork (r : Response) : (s.endTxPacket r).txWork = none := rfl
@[simp] theorem State.endTxPacket_txResponses (r : Response) : (s.endTxPacket r).txResponses = s.txResponses ++ [r] := rfl
@[simp] theorem State.endTxPacket_sinkOffers (r : Response) : (s.endTxPacket r).sinkOffers = s.sinkOffers := rfl
@[simp] theorem State.endTxPacket_sinkAnswers (r : Response) : (s.endTxPacket r).sinkAnswers = s.sinkAnswers := rfl
@[simp] theorem State.endTxPacket_script (r : Response) : (s.endTxPacket r).script = s.script := rfl

/-! ### `leave_rx` -/

@[simp] theorem State.leave_rx_cfg (rest : Bytes) : (s.leave .rx rest).cfg = s.cfg := rfl
@[simp] theorem State.leave_rx_rawOffset (rest : Bytes) : (s.leave .rx rest).rawOffset = s.rawOffset := rfl
@[simp] theorem State.leave_rx_rawBuf (rest : Bytes) : (s.leave .rx rest).rawBuf = s.rawBuf := rfl
@[simp] theorem State.leave_rx_encodedLen (rest : Bytes) : (s.leave .rx rest).encodedLen = s.encodedLen := rfl
@[simp] theorem State.leave_rx_encBuf (rest : Bytes) : (s.leave .rx rest).encBuf = s.encBuf := rfl
@[simp] theorem State.leave_rx_declaredBodyLen (rest : Bytes) : (s.leave .rx rest).declaredBodyLen = s.declaredBodyLen := rfl
@[simp] theorem State.leave_rx_ev (rest : Bytes) : (s.leave .rx rest).ev = s.ev := rfl
@[simp] theorem State.leave_rx_ovf (rest : Bytes) : (s.leave .rx rest).ovf = s.ovf := rfl
@[simp] theorem State.leave_rx_rxIn (rest : Bytes) : (s.leave .rx rest).rxIn = rest := rfl
@[simp] theorem State.leave_rx_rxUntaken (rest : Bytes) : (s.leave .rx rest).rxUntaken = s.rxUntaken := rfl
@[simp] theorem State.leave_rx_rxResponses (rest : Bytes) : (s.leave .rx rest).rxResponses = s.rxResponses := rfl
@[simp] theorem State.leave_rx_txIn (rest : Bytes) : (s.leave .rx rest).txIn = s.txIn := rfl
@[simp] theorem State.leave_rx_txWork (rest : Bytes) : (s.leave .rx rest).txWork = s.txWork := rfl
@[simp] theorem State.leave_rx_txResponses (rest : Bytes) : (s.leave .rx rest).txResponses = s.txResponses := rfl
@[simp] theorem State.leave_rx_sinkOffers (rest : Bytes) : (s.leave .rx rest).sinkOffers = s.sinkOffers := rfl
@[simp] theorem State.leave_rx_sinkAnswers (rest : Bytes) : (s.leave .rx rest).sinkAnswers = s.sinkAnswers := rfl
@[simp] theorem State.leave_rx_script (rest : Bytes) : (s.leave .rx rest).script = s.script := rfl

/-! ### `leave_tx` -/

@[simp] theorem State.leave_tx_cfg (rest : Bytes) : (s.leave .tx rest).cfg = s.cfg := rfl
@[simp] theorem State.leave_tx_rawOffset (rest : Bytes) : (s.leave .tx rest).rawOffset = s.rawOffset := rfl
@[simp] theorem State.leave_tx_rawBuf (rest : Bytes) : (s.leave .tx rest).rawBuf = s.rawBuf := rfl
@[simp] theorem State.leave_tx_encodedLen (rest : Bytes) : (s.leave .tx rest).encodedLen = s.encodedLen := rfl
@[simp] theorem State.leave_tx_encBuf (rest : Bytes) : (s.leave .tx rest).encBuf = s.encBuf := rfl
@[simp] theorem State.leave_tx_declaredBodyLen (rest : Bytes) : (s.leave .tx rest).declaredBodyLen = s.declaredBodyLen := rfl
@[simp] theorem State.leave_tx_ev (rest : Bytes) : (s.leave .tx rest).ev = s.ev := rfl
@[simp] theorem State.leave_tx_ovf (rest : Bytes) : (s.leave .tx rest).ovf = s.ovf := rfl
@[simp] theorem State.leave_tx_rxIn (rest : Bytes) : (s.leave .tx rest).rxIn = s.rxIn := rfl
@[simp] theorem State.leave_tx_rxUntaken (rest : Bytes) : (s.leave .tx rest).rxUntaken = s.rxUntaken := rfl
@[simp] theorem State.leave_tx_rxResponses (rest : Bytes) : (s.leave .tx rest).rxResponses = s.rxResponses := rfl
@[simp] theorem State.leave_tx_txIn (rest : Bytes) : (s.leave .tx rest).txIn = rest := rfl
@[simp] theorem State.leave_tx_txWork (rest : Bytes) : (s.leave .tx rest).txWork = s.txWork := rfl
@[simp] theorem State.leave_tx_txResponses (rest : Bytes) : (s.leave .tx rest).txResponses = s.txResponses := rfl
@[simp] theorem State.leave_tx_sinkOffers (rest : Bytes) : (s.leave .tx rest).sinkOffers = s.sinkOffers := rfl
@[simp] theorem State.leave_tx_sinkAnswers (rest : Bytes) : (s.leave .tx rest).sinkAnswers = s.sinkAnswers := rfl
@[simp] theorem State.leave_tx_script (rest : Bytes) : (s.leave .tx rest).script = s.script := rfl

/-! ### `powerOn` -/

@[simp] theorem State.powerOn_cfg : (s.powerOn).cfg = s.cfg := rfl
@[simp] theorem State.powerOn_rawOffset : (s.powerOn).rawOffset = 0 := rfl
@[simp] theorem State.powerOn_rawBuf : (s.powerOn).rawBuf = [] := rfl
@[simp] theorem State.powerOn_encodedLen : (s.powerOn).encodedLen = 0 := rfl
@[simp] theorem State.powerOn_encBuf : (s.powerOn).encBuf = [] := rfl
@[simp] theorem State.powerOn_declaredBodyLen : (s.powerOn).declaredBodyLen = 0#16 := rfl
@[simp] theorem State.powerOn_ev : (s.powerOn).ev = .reset := rfl
@[simp] theorem State.powerOn_ovf : (s.powerOn).ovf = false := rfl
@[simp] theorem State.powerOn_rxIn : (s.powerOn).rxIn = [] := rfl
@[simp] theorem State.powerOn_rxUntaken : (s.powerOn).rxUntaken = false := rfl
@[simp] theorem State.powerOn_rxResponses : (s.powerOn).rxResponses = s.rxResponses := rfl
@[simp] theorem State.powerOn_txIn : (s.powerOn).txIn = [] := rfl
@[simp] theorem State.powerOn_txWork : (s.powerOn).txWork = none := rfl
@[simp] theorem State.powerOn_txResponses : (s.powerOn).txResponses = s.txResponses := rfl
@[simp] theorem State.powerOn_sinkOffers : (s.powerOn).sinkOffers = s.sinkOffers := rfl
@[simp] theorem State.powerOn_sinkAnswers : (s.powerOn).sinkAnswers = s.sinkAnswers := rfl
@[simp] theorem State.powerOn_script : (s.powerOn).script = s.script := rfl

end Sys2Proof.Machine
end

