-- ==== Sys2Proof/Laws/Ops.lean ====
section
/-!
SUPPORT. What buffer access and the answer to an illegal word can do, said once.
-/

namespace Sys2Proof.Machine

/-- A buffer read answers bytes exactly where every one of them has a value. -/
theorem bufRead_eq_ok {buf : BufferId} {m : Memory} {a n : Nat} {bs : Bytes} :
    bufRead buf m a n = .ok bs ↔ m.readBytes a n = some bs := by
  unfold bufRead
  cases m.readBytes a n <;> simp

/-- A buffer write is made exactly where it stays within the capacity. -/
theorem bufWrite_eq_ok {buf : BufferId} {cap : Nat} {m m' : Memory} {a : Nat} {bs : Bytes} :
    bufWrite buf cap m a bs = .ok m' ↔ a + bs.length ≤ cap ∧ m' = m.writeBytes a bs := by
  unfold bufWrite
  split <;> simp [*, eq_comm]

/-- A buffer write keeps the canonical form and the capacity. -/
theorem bufWrite_ok_wf {buf : BufferId} {cap : Nat} {m m' : Memory} {a : Nat} {bs : Bytes}
    (h : bufWrite buf cap m a bs = .ok m') (hw : m.wf = true) (hc : m.within cap = true) :
    m'.wf = true ∧ m'.within cap = true := by
  obtain ⟨hb, rfl⟩ := bufWrite_eq_ok.mp h
  exact ⟨Memory.writeBytes_wf bs m a hw, Memory.writeBytes_within bs m a cap hb hc⟩

/-- An illegal word changes the responses of its port alone (R197). -/
theorem answerIllegal_eq (s : State) (p : Port) :
    s.answerIllegal p =
      { s with
        rxResponses := if p = .rx then s.rxResponses ++ [Response.illegal] else s.rxResponses
        rxUntaken := if p = .rx then true else s.rxUntaken
        txResponses := if p = .tx then s.txResponses ++ [Response.illegal] else s.txResponses } := by
  cases p <;> rfl

end Sys2Proof.Machine
end

