-- ==== Sys2Proof/Laws/Rx.lean ====
section
/-!
SUPPORT. What each part of RX_FEED can do, said once: the overflow rule, the append, the verdict on a line, the commit of a
frame, the completion test.
-/

namespace Sys2Proof.Machine

/-! ### Scratch overflow -/

theorem scratchOverflow_full {s : State} (h : s.encodedLen = s.cfg.encCap) :
    scratchOverflow s = { s with rawOffset := 0, encodedLen := 0, ovf := true } := if_pos h

theorem scratchOverflow_room {s : State} (h : s.encodedLen ≠ s.cfg.encCap) :
    scratchOverflow s = { s with ovf := false } := if_neg h

/-- The overflow rule touches `raw_offset`, `encoded_len` and the ghost flag alone (R123). -/
theorem scratchOverflow_frame (s : State) :
    scratchOverflow s =
      { s with
        rawOffset := (scratchOverflow s).rawOffset
        encodedLen := (scratchOverflow s).encodedLen
        ovf := (scratchOverflow s).ovf } := by
  unfold scratchOverflow
  split <;> rfl

@[simp] theorem scratchOverflow_cfg (s : State) : (scratchOverflow s).cfg = s.cfg := by
  rw [scratchOverflow_frame]

@[simp] theorem scratchOverflow_rawBuf (s : State) : (scratchOverflow s).rawBuf = s.rawBuf := by
  rw [scratchOverflow_frame]

@[simp] theorem scratchOverflow_encBuf (s : State) : (scratchOverflow s).encBuf = s.encBuf := by
  rw [scratchOverflow_frame]

@[simp] theorem scratchOverflow_declaredBodyLen (s : State) :
    (scratchOverflow s).declaredBodyLen = s.declaredBodyLen := by
  rw [scratchOverflow_frame]

@[simp] theorem scratchOverflow_rxResponses (s : State) : (scratchOverflow s).rxResponses = s.rxResponses := by
  rw [scratchOverflow_frame]

@[simp] theorem scratchOverflow_ev (s : State) : (scratchOverflow s).ev = s.ev := by
  rw [scratchOverflow_frame]

@[simp] theorem scratchOverflow_rxIn (s : State) : (scratchOverflow s).rxIn = s.rxIn := by
  rw [scratchOverflow_frame]

@[simp] theorem scratchOverflow_rxUntaken (s : State) : (scratchOverflow s).rxUntaken = s.rxUntaken := by
  rw [scratchOverflow_frame]

@[simp] theorem scratchOverflow_txIn (s : State) : (scratchOverflow s).txIn = s.txIn := by
  rw [scratchOverflow_frame]

@[simp] theorem scratchOverflow_txWork (s : State) : (scratchOverflow s).txWork = s.txWork := by
  rw [scratchOverflow_frame]

@[simp] theorem scratchOverflow_txResponses (s : State) : (scratchOverflow s).txResponses = s.txResponses := by
  rw [scratchOverflow_frame]

@[simp] theorem scratchOverflow_sinkOffers (s : State) : (scratchOverflow s).sinkOffers = s.sinkOffers := by
  rw [scratchOverflow_frame]

@[simp] theorem scratchOverflow_sinkAnswers (s : State) : (scratchOverflow s).sinkAnswers = s.sinkAnswers := by
  rw [scratchOverflow_frame]

@[simp] theorem scratchOverflow_script (s : State) : (scratchOverflow s).script = s.script := by
  rw [scratchOverflow_frame]

/-- After the overflow rule the window has room for a byte. -/
theorem scratchOverflow_lt {s : State} (h : s.encodedLen ≤ s.cfg.encCap) (hc : 1 ≤ s.cfg.encCap) :
    (scratchOverflow s).encodedLen < s.cfg.encCap := by
  unfold scratchOverflow
  split <;> simp only <;> omega

/-! ### Append -/

/-- The append stores one byte at the end of the window, exactly where it fits (R124). -/
theorem scratchAppend_eq_ok {b : Byte} {s t : State} :
    scratchAppend b s = .ok t ↔
      s.encodedLen < s.cfg.encCap ∧
        t = { s with encBuf := s.encBuf.write s.encodedLen b, encodedLen := s.encodedLen + 1 } := by
  unfold scratchAppend
  simp only [State.encodedOffset_eq, Nat.zero_add]
  constructor
  · intro h
    split at h
    · exact absurd h (by simp)
    · next m hm =>
      obtain ⟨h1, rfl⟩ := bufWrite_eq_ok.mp hm
      simp only [List.length_cons, List.length_nil] at h1
      obtain rfl : _ = t := by simpa using h
      exact ⟨by omega, rfl⟩
  · rintro ⟨h, rfl⟩
    rw [bufWrite_eq_ok.mpr ⟨by simpa using h, rfl⟩]
    rfl

/-- The window after an append reads as the window before it and the byte. -/
theorem readBytes_append {m : Memory} {n : Nat} {line : Bytes} (b : Byte) (h : m.readBytes 0 n = some line) :
    (m.write n b).readBytes 0 (n + 1) = some (line ++ [b]) := by
  refine Memory.readBytes_add n 1 _ 0 line [b] ?_ ?_
  · rw [← h]
    exact Memory.readBytes_congr n _ _ 0 fun x _ hx => Memory.read?_write_other m b (by omega)
  · simp [Memory.readBytes]

/-- A write at the end of the window leaves the window. -/
theorem readBytes_write_end (m : Memory) (n : Nat) (b : Byte) :
    (m.write n b).readBytes 0 n = m.readBytes 0 n :=
  Memory.readBytes_congr n _ _ 0 fun _ _ hx => Memory.read?_write_other m b (by omega)

/-! ### The verdict on a line -/

/-- A frame's decoded bytes are accepted exactly where they fit and hold the length field of a packet-start (R134, R136). -/
theorem frameVerdict_eq_accept {rawCap base base' : Nat} {start start' : Bool} {r r' : Bytes}
    (h : frameVerdict rawCap start base r = .accept start' base' r') :
    base + r.length ≤ rawCap ∧ (start = true → 2 ≤ r.length) ∧ start = start' ∧ base = base' ∧ r = r' := by
  unfold frameVerdict at h
  by_cases h1 : rawCap < base + r.length
  · rw [if_pos h1] at h; cases h
  rw [if_neg h1] at h
  by_cases h2 : start = true ∧ r.length < 2
  · rw [if_pos h2] at h; cases h
  rw [if_neg h2] at h
  simp only [LineVerdict.accept.injEq] at h
  exact ⟨by omega, fun hs => by_contra fun hl => h2 ⟨hs, by omega⟩, h⟩

/-- Where a frame is accepted (R132, R134, R136): its tag, where its bytes go, and that they fit. -/
theorem lineVerdict_eq_accept {rawCap rawOffset base : Nat} {line r : Bytes} {start : Bool}
    (h : lineVerdict rawCap rawOffset line = .accept start base r) :
    ∃ hb lb text, line = hb :: lb :: text ∧ b64Dec text = some r ∧
      base + r.length ≤ rawCap ∧
      ((start = true ∧ be16 hb lb = packetStartTag ∧ base = 0 ∧ 2 ≤ r.length) ∨
       (start = false ∧ be16 hb lb = continuationTag ∧ base = rawOffset ∧ rawOffset ≠ 0)) := by
  unfold lineVerdict at h
  split at h
  · next hb lb text =>
    dsimp only at h
    by_cases h1 : be16 hb lb ≠ packetStartTag ∧ be16 hb lb ≠ continuationTag
    · rw [if_pos h1] at h; cases h
    rw [if_neg h1] at h
    by_cases h2 : be16 hb lb = continuationTag ∧ rawOffset = 0
    · rw [if_pos h2] at h; cases h
    rw [if_neg h2] at h
    split at h
    · exact absurd h (by simp)
    next r' hr =>
    by_cases ht : be16 hb lb = packetStartTag
    · simp only [ht, decide_true, if_true] at h
      obtain ⟨h3, h4, rfl, rfl, rfl⟩ := frameVerdict_eq_accept h
      exact ⟨hb, lb, text, rfl, hr, h3, .inl ⟨rfl, ht, rfl, h4 rfl⟩⟩
    · have hc : be16 hb lb = continuationTag := by
        by_contra hc
        exact h1 ⟨ht, hc⟩
      simp only [ht, decide_false, Bool.false_eq_true, if_false] at h
      obtain ⟨h3, -, rfl, rfl, rfl⟩ := frameVerdict_eq_accept h
      exact ⟨hb, lb, text, rfl, hr, h3, .inr ⟨rfl, hc, rfl, fun h0 => h2 ⟨hc, h0⟩⟩⟩
  · exact absurd h (by simp)

/-- The declared length after an accepted packet-start frame is its first two bytes (R136). -/
theorem declaredAfter_start {r : Bytes} (old : U16) (h : 2 ≤ r.length) :
    declaredAfter true r old = be16 (r.getD 0 0#8) (r.getD 1 0#8) := by
  match r, h with
  | a :: b :: _, _ => rfl

@[simp] theorem declaredAfter_continuation (r : Bytes) (old : U16) : declaredAfter false r old = old := rfl

/-! ### Commit -/

/-- A frame's bytes are committed exactly where they fit (R134). -/
theorem commitFrame_eq_ok {start : Bool} {base : Nat} {r : Bytes} {s t : State} :
    commitFrame start base r s = .ok t ↔
      base + r.length ≤ s.cfg.rawCap ∧
        t = { s with
          rawBuf := s.rawBuf.writeBytes base r
          rawOffset := base + r.length
          declaredBodyLen := declaredAfter start r s.declaredBodyLen } := by
  unfold commitFrame
  constructor
  · intro h
    split at h
    · exact absurd h (by simp)
    · next m hm =>
      obtain ⟨h1, rfl⟩ := bufWrite_eq_ok.mp hm
      obtain rfl : _ = t := by simpa using h
      exact ⟨h1, rfl⟩
  · rintro ⟨h, rfl⟩
    rw [bufWrite_eq_ok.mpr ⟨h, rfl⟩]

/-- The decoded stream after a commit: the bytes kept, then the frame's. -/
theorem readBytes_commit {m : Memory} {base : Nat} {kept : Bytes} (r : Bytes) (h : m.readBytes 0 base = some kept) :
    (m.writeBytes base r).readBytes 0 (base + r.length) = some (kept ++ r) := by
  refine Memory.readBytes_add base r.length _ 0 kept r ?_ ?_
  · rw [← h]
    exact Memory.readBytes_congr base _ _ 0 fun x _ hx => Memory.read?_writeBytes_outside r m base x (by omega)
  · rw [Nat.zero_add]
    exact Memory.readBytes_writeBytes r m base

/-! ### Completion -/

/-- What the completion test answers (R137 to R140): every one of its outcomes. -/
theorem completePacket_next {s t : State} (h : completePacket s = .next t) :
    (s.rawOffset < s.expectedTotal ∧ t = s.finishRx .more Response.okNone) ∨
    (s.expectedTotal < s.rawOffset ∧ t = s.endPacket.finishRx .overlen Response.okNone) ∨
    (s.rawOffset = s.expectedTotal ∧ ∃ span, s.rawBuf.readBytes 2 (s.rawOffset - 2) = some span ∧
      ((crc16 span ≠ 0#16 ∧ t = s.endPacket.finishRx .crc Response.okNone) ∨
       (crc16 span = 0#16 ∧ ∃ body, s.rawBuf.readBytes 2 (s.rawOffset - 4) = some body ∧
          t = s.endPacket.finishRx .complete { status := .packet, payload := .data body }))) := by
  unfold completePacket at h
  split_ifs at h with h1 h2
  · exact .inl ⟨h1, by simpa using h.symm⟩
  · exact .inr (.inl ⟨h2, by simpa using h.symm⟩)
  · refine .inr (.inr ⟨by omega, ?_⟩)
    split at h
    · exact absurd h (by simp)
    · next span hs =>
      refine ⟨span, bufRead_eq_ok.mp hs, ?_⟩
      split_ifs at h with h3
      · exact .inl ⟨h3, by simpa using h.symm⟩
      · split at h
        · exact absurd h (by simp)
        · next body hb =>
          exact .inr ⟨not_not.mp h3, body, bufRead_eq_ok.mp hb, by simpa using h.symm⟩

/-! ### RX_FEED -/

/-- What RX_FEED does where it answers a next state: the byte is stored; it is no newline, or it ends a line that is
discarded, or a frame is committed and the completion test answers. -/
theorem execRxFeed_next {b : Byte} {s t : State} (h : execRxFeed b s = .next t) :
    ∃ s', scratchAppend b (scratchOverflow s) = .ok s' ∧
      ((b ≠ newline ∧ t = s'.finishRx .accum Response.okNone) ∨
       (b = newline ∧ ∃ line, s'.encBuf.readBytes 0 (s'.encodedLen - 1) = some line ∧
         ((∃ e, lineVerdict s'.cfg.rawCap s'.rawOffset line = .discard e ∧
            t = { s' with encodedLen := 0 }.finishRx e Response.okNone) ∨
          (∃ start base r s'', lineVerdict s'.cfg.rawCap s'.rawOffset line = .accept start base r ∧
            commitFrame start base r { s' with encodedLen := 0 } = .ok s'' ∧ completePacket s'' = .next t)))) := by
  unfold execRxFeed at h
  split at h
  · exact absurd h (by simp)
  · next s' hs =>
    refine ⟨s', hs, ?_⟩
    split_ifs at h with hb
    · exact .inl ⟨hb, by simpa using h.symm⟩
    · refine .inr ⟨not_not.mp hb, ?_⟩
      unfold endLine at h
      split at h
      · exact absurd h (by simp)
      · next line hl =>
        refine ⟨line, bufRead_eq_ok.mp hl, ?_⟩
        unfold evalLine at h
        dsimp only at h
        split at h
        · next e he => exact .inl ⟨e, he, by simpa using h.symm⟩
        · next start base r hv =>
          split at h
          · exact absurd h (by simp)
          · next s'' hc => exact .inr ⟨start, base, r, s'', hv, hc, h⟩

/-! ### RX_FEED forwards: what it answers -/

/-- After the overflow rule there is always room for the byte (R123, R124). -/
theorem scratchAppend_scratchOverflow {s : State} (h : s.cfg.Admissible) (hl : s.encodedLen ≤ s.cfg.encCap) (b : Byte) :
    scratchAppend b (scratchOverflow s) =
      .ok { scratchOverflow s with
        encBuf := s.encBuf.write (scratchOverflow s).encodedLen b
        encodedLen := (scratchOverflow s).encodedLen + 1 } := by
  rw [scratchAppend_eq_ok]
  exact ⟨by rw [scratchOverflow_cfg]; exact scratchOverflow_lt hl (by have := h.2.2.1; omega), by simp⟩

/-- A newline evaluates the line in the window, and empties it (R126, R127). -/
theorem execRxFeed_newline {s : State} {line : Bytes} (h : s.cfg.Admissible) (hl : s.encodedLen ≤ s.cfg.encCap)
    (hc : (scratchOverflow s).encBuf.readBytes 0 (scratchOverflow s).encodedLen = some line) :
    execRxFeed newline s =
      evalLine line { scratchOverflow s with
        encBuf := s.encBuf.write (scratchOverflow s).encodedLen newline
        encodedLen := 0 } := by
  unfold execRxFeed
  rw [scratchAppend_scratchOverflow h hl newline]
  simp only [ne_eq, not_true_eq_false, if_false]
  unfold endLine
  have : bufRead .enc (s.encBuf.write (scratchOverflow s).encodedLen newline) 0
      ((scratchOverflow s).encodedLen + 1 - 1) = .ok line := by
    rw [bufRead_eq_ok, Nat.add_sub_cancel, readBytes_write_end]
    simpa using hc
  simp only [State.encodedOffset_eq, this]

/-- Evaluating a line changes `raw_buf`, `raw_offset`, `declared_body_len`, the ghost event and the response alone. -/
theorem evalLine_frame {line : Bytes} {s t : State} (h : evalLine line s = .next t) :
    t.encodedLen = s.encodedLen ∧ t.encBuf = s.encBuf ∧ t.cfg = s.cfg ∧ t.rxIn = s.rxIn ∧ t.txIn = s.txIn ∧
      t.txWork = s.txWork ∧ t.txResponses = s.txResponses ∧ t.sinkOffers = s.sinkOffers ∧
      t.sinkAnswers = s.sinkAnswers ∧ t.script = s.script ∧ t.ovf = s.ovf ∧ t.rxUntaken = true := by
  unfold evalLine at h
  split at h
  · cases h; simp
  · split at h
    · cases h
    next s' hc =>
    obtain ⟨_, rfl⟩ := commitFrame_eq_ok.mp hc
    obtain ⟨_, rfl⟩ | ⟨_, rfl⟩ | ⟨_, span, _, ⟨_, rfl⟩ | ⟨_, body, _, rfl⟩⟩ := completePacket_next h <;> simp

end Sys2Proof.Machine
end

