-- ==== Sys2Proof/Laws/Tx.lean ====
section
/-!
SUPPORT. What the TX engine's steps can do, said once, and the shape of the frame split.
-/

namespace Sys2Proof.Machine

/-! ### The `Send` loop -/

theorem receiveAnswer_none {s : State} {w : TxWork} (h : s.sinkAnswers = []) :
    s.receiveAnswer w = { s with txWork := some { w with phase := .waiting } } := by
  simp [State.receiveAnswer, h]

theorem receiveAnswer_some {s : State} {w : TxWork} {a : SendAnswer} {rest : List SendAnswer}
    (h : s.sinkAnswers = a :: rest) :
    s.receiveAnswer w = { s with txWork := some (w.answered a), sinkAnswers := rest } := by
  simp [State.receiveAnswer, h]

/-- One step of a TX_PACKET changes the TX engine's own state, its responses and the sink port alone (10_state.md R20). -/
theorem txAdvance_frame (s : State) (w : TxWork) :
    s.txAdvance w =
      { s with
        txWork := (s.txAdvance w).txWork
        txResponses := (s.txAdvance w).txResponses
        sinkOffers := (s.txAdvance w).sinkOffers
        sinkAnswers := (s.txAdvance w).sinkAnswers } := by
  unfold State.txAdvance State.receiveAnswer
  split
  · rfl
  · split <;> rfl
  · split
    · rfl
    · split <;> rfl

/-- What one step of a TX_PACKET does (R174 to R176): it gives the response of a failed `Send`, or of a packet that is
sent, or it makes the `Send` of the next frame, or takes or awaits the answer to the frame offered. -/
theorem txAdvance_cases (s : State) (w : TxWork) :
    (∃ e, w.phase = .failed e ∧ s.txAdvance w = s.endTxPacket { status := .errSend, payload := .sinkErr e }) ∨
    (w.phase = .waiting ∧ s.txAdvance w = s.receiveAnswer w) ∨
    (w.phase = .offering ∧ w.frames.length ≤ w.next ∧ s.txAdvance w = s.endTxPacket Response.okNone) ∨
    (w.phase = .offering ∧ ∃ gs, w.frames[w.next]? = some gs ∧
      s.txAdvance w =
        { s with sinkOffers := s.sinkOffers ++ [frameBytes w.stream w.next gs] }.receiveAnswer w) := by
  unfold State.txAdvance TxWork.frame
  cases hp : w.phase with
  | failed e => exact .inl ⟨e, rfl, rfl⟩
  | waiting => exact .inr (.inl ⟨rfl, rfl⟩)
  | offering =>
    cases hf : w.frames[w.next]? with
    | none => exact .inr (.inr (.inl ⟨rfl, by simpa using hf, rfl⟩))
    | some gs => exact .inr (.inr (.inr ⟨rfl, gs, rfl, rfl⟩))

/-! ### The frame split -/

/-- The split never gives an empty list of frames, and its first frame begins with the open one. -/
theorem splitLoop_ne_nil (k g t : Nat) : ∀ (m i : Nat) (cur : List Nat), splitLoop k g t m i cur ≠ []
  | 0, _, _ => by simp [splitLoop]
  | m + 1, i, cur => by
    unfold splitLoop
    split
    · simp
    · exact splitLoop_ne_nil k g t m (i + 1) _

/-- The split keeps every group, in order (R169). -/
theorem splitLoop_flatten (k g t : Nat) : ∀ (m i : Nat) (cur : List Nat),
    (splitLoop k g t m i cur).flatten = cur ++ List.range' i m
  | 0, _, _ => by simp [splitLoop]
  | m + 1, i, cur => by
    unfold splitLoop
    split
    · simp [splitLoop_flatten k g t m (i + 1), List.range'_succ]
    · simp [splitLoop_flatten k g t m (i + 1), List.range'_succ]

theorem framesFrom_length (stream : Bytes) (fs : List (List Nat)) : ∀ j, (framesFrom stream j fs).length = fs.length := by
  induction fs with
  | nil => exact fun _ => rfl
  | cons gs fs ih => exact fun j => by simp [framesFrom, ih]

/-- Frame `j` of a packet is the bytes of its groups. -/
theorem framesFrom_getElem? (stream : Bytes) (fs : List (List Nat)) : ∀ (j i : Nat),
    (framesFrom stream j fs)[i]? = fs[i]?.map (frameBytes stream (j + i)) := by
  induction fs with
  | nil => simp [framesFrom]
  | cons gs fs ih =>
    intro j i
    cases i with
    | zero => simp [framesFrom]
    | succ i => simp [framesFrom, ih, Nat.add_comm, Nat.add_left_comm]

end Sys2Proof.Machine
end

