-- ==== Sys2Proof/Laws/Engines.lean ====
section
/-!
SUPPORT. What a turn of an engine, and a step, can do, said once.
-/

namespace Sys2Proof.Machine

/-- The RX engine's turn (R216, R197): the port accepts nothing or holds no whole command and nothing changes, or an illegal
word is answered, or a command runs. -/
theorem rxTurn_cases (s : State) :
    (rxTurn s = .next s ∧ (s.rxUntaken = true ∨ decode .rx s.rxIn = .incomplete)) ∨
    (s.rxUntaken = false ∧ ∃ why rest, decode .rx s.rxIn = .illegal why rest ∧
      rxTurn s = .next ({ s with rxIn := rest }.respondRx Response.illegal)) ∨
    (s.rxUntaken = false ∧ ∃ i rest, decode .rx s.rxIn = .command i rest ∧ rxTurn s = exec i { s with rxIn := rest }) := by
  by_cases hu : s.rxUntaken = true
  · exact .inl ⟨by simp [rxTurn, engineTurn, hu], .inl hu⟩
  · have ht : rxTurn s = takeCommand exec .rx s := by simp [rxTurn, engineTurn, hu]
    rw [Bool.not_eq_true] at hu
    rw [ht, takeCommand, show s.waiting .rx = s.rxIn from rfl]
    cases decode .rx s.rxIn with
    | command i rest => exact .inr (.inr ⟨hu, i, rest, rfl, rfl⟩)
    | illegal why rest => exact .inr (.inl ⟨hu, why, rest, rfl, rfl⟩)
    | incomplete => exact .inl ⟨rfl, .inr rfl⟩

/-- The TX engine's turn: a TX_PACKET in progress goes on (R224), or the port holds no whole command, or an illegal word is
answered, or a command runs. -/
theorem txTurn_cases (s : State) :
    (∃ w, s.txWork = some w ∧ txTurn s = .next (s.txAdvance w)) ∨
    (s.txWork = none ∧ txTurn s = .next s ∧ decode .tx s.txIn = .incomplete) ∨
    (s.txWork = none ∧ ∃ why rest, decode .tx s.txIn = .illegal why rest ∧
      txTurn s = .next ({ s with txIn := rest }.respondTx Response.illegal)) ∨
    (s.txWork = none ∧ ∃ i rest, decode .tx s.txIn = .command i rest ∧ txTurn s = exec i { s with txIn := rest }) := by
  obtain hw | ⟨w, hw⟩ := Option.eq_none_or_eq_some s.txWork
  · have ht : txTurn s = takeCommand exec .tx s := by simp [txTurn, engineTurn, hw]
    rw [ht, takeCommand, show s.waiting .tx = s.txIn from rfl]
    cases decode .tx s.txIn with
    | command i rest => exact .inr (.inr (.inr ⟨hw, i, rest, rfl, rfl⟩))
    | illegal why rest => exact .inr (.inr (.inl ⟨hw, why, rest, rfl, rfl⟩))
    | incomplete => exact .inr (.inl ⟨hw, rfl, rfl⟩)
  · exact .inl ⟨w, hw, by simp [txTurn, engineTurn, hw]⟩

/-- A step is a turn of an engine or one of the environment's moves (log entry 8). -/
theorem step_cases (s : State) :
    (∃ rest, s.script = .rxTurn :: rest ∧ step s = rxTurn { s with script := rest }) ∨
    (∃ rest, s.script = .txTurn :: rest ∧ step s = txTurn { s with script := rest }) ∨
    (∃ bs rest, s.script = .issueRx bs :: rest ∧ step s = .next { s with script := rest, rxIn := s.rxIn ++ bs }) ∨
    (∃ bs rest, s.script = .issueTx bs :: rest ∧ step s = .next { s with script := rest, txIn := s.txIn ++ bs }) ∨
    (∃ rest, s.script = .takeRx :: rest ∧ step s = .next { s with script := rest, rxUntaken := false }) ∨
    (∃ a rest, s.script = .answer a :: rest ∧
      step s = .next { s with script := rest, sinkAnswers := s.sinkAnswers ++ [a] }) ∨
    (∃ rest, s.script = .powerOn :: rest ∧ step s = .next { s with script := rest }.powerOn) ∨
    (s.script = [] ∧ s.rxReady = true ∧ step s = rxTurn s) ∨
    (s.script = [] ∧ s.rxReady = false ∧ step s = txTurn s) := by
  unfold step stepWith
  cases hs : s.script with
  | nil =>
    cases hr : s.rxReady with
    | true => exact .inr (.inr (.inr (.inr (.inr (.inr (.inr (.inl ⟨rfl, rfl, by simp [rxTurn]⟩)))))))
    | false => exact .inr (.inr (.inr (.inr (.inr (.inr (.inr (.inr ⟨rfl, rfl, by simp [txTurn]⟩)))))))
  | cons v rest =>
    cases v with
    | rxTurn => exact .inl ⟨rest, rfl, rfl⟩
    | txTurn => exact .inr (.inl ⟨rest, rfl, rfl⟩)
    | issueRx bs => exact .inr (.inr (.inl ⟨bs, rest, rfl, rfl⟩))
    | issueTx bs => exact .inr (.inr (.inr (.inl ⟨bs, rest, rfl, rfl⟩)))
    | takeRx => exact .inr (.inr (.inr (.inr (.inl ⟨rest, rfl, rfl⟩))))
    | answer a => exact .inr (.inr (.inr (.inr (.inr (.inl ⟨a, rest, rfl, rfl⟩)))))
    | powerOn => exact .inr (.inr (.inr (.inr (.inr (.inr (.inl ⟨rest, rfl, rfl⟩))))))

end Sys2Proof.Machine
end

