-- ==== Sys2Proof/Laws/PerInstr.lean ====
section
/-!
SUPPORT. Facts about every command as syntax, one lemma per constructor: the length of an encoding is the one its format
gives it (30_encoding.md R66, R76).
-/

namespace Sys2Proof.Laws.EncodeLength

open Machine

/-- The encoding has the length R76 gives the command. -/
def Statement (i : Instr) : Prop := (encode i).length = i.byteLength

theorem rxReset : Statement .rxReset := rfl

theorem rxFeed (b : Byte) : Statement (.rxFeed b) := rfl

theorem txPacket (data : Bytes) : Statement (.txPacket data) := by
  simp [Statement, encode, Instr.byteLength, formatLength, payloadBytes, beBytes]; omega

theorem crc16 (data : Bytes) : Statement (.crc16 data) := by
  simp [Statement, encode, Instr.byteLength, formatLength, payloadBytes, beBytes]; omega

theorem b64Encode (pad : Bool) (cap : U16) (data : Bytes) : Statement (.b64Encode pad cap data) := by
  simp [Statement, encode, Instr.byteLength, formatLength, payloadBytes, beBytes]; omega

theorem b64Decode (cap : U16) (data : Bytes) : Statement (.b64Decode cap data) := by
  simp [Statement, encode, Instr.byteLength, formatLength, payloadBytes, beBytes]; omega

theorem b64DecLen (data : Bytes) : Statement (.b64DecLen data) := by
  simp [Statement, encode, Instr.byteLength, formatLength, payloadBytes, beBytes]; omega

end Sys2Proof.Laws.EncodeLength
end

