-- ==== Sys2Proof/Tests/Slice0.lean ====
section
/-!
SUPPORT. Tests. First well-formedness and decoding, then one step of each command, with the expected values of
95_test_vectors.md; then a witness for every statement of Obligations.lean that has hypotheses.
-/

namespace Sys2Proof.Tests

open Machine

-- One theorem at a time: each of these waits for the kernel, and together they would hold a thread each.
set_option Elab.async false

/-! ### Helpers -/

/-- The ASCII bytes of a text. -/
def ascii (cs : List Char) : Bytes := cs.map fun c => BitVec.ofNat 8 c.toNat

/-- The next state of a step, if it has one. -/
def ask : Result → Option State
  | .next s => some s
  | .fault _ => none
  | .refused _ => none

/-- The next state of a step, and the reset state where there is none. -/
def after (r : Result) : State := (ask r).getD State.reset

theorem next_after {r : Result} (h : (ask r).isSome = true) : r = .next (after r) := by
  cases r <;> simp_all [ask, after]

/-- A state with the decoded bytes `raw` of a packet of declared length `decl` and the line `line` in the window. -/
def rxState (cfg : BuildParams) (raw : Bytes) (decl : U16) (line : Bytes) : State :=
  { State.reset with
    cfg := cfg
    rawOffset := raw.length
    rawBuf := Memory.writeBytes [] 0 raw
    encodedLen := line.length
    encBuf := Memory.writeBytes [] 0 line
    declaredBodyLen := decl }

/-- The reference build. -/
def ref : BuildParams := BuildParams.reference

/-- A build with the least capacities: `RAW_CAP = 4`, `ENC_CAP = 3`. -/
def least : BuildParams := { rawCap := 4, encCap := 3, frameGroups := 2 }

/-- The text of the worked example L1. -/
def l1Text : Bytes := ascii ['A', 'A', 'Q', 'B', 'A', 'g', 'M', 'E', 'D', 'Q', 'M', '=']

/-- The line of L1: tag and text. -/
def l1Line : Bytes := [0x06#8, 0x09#8] ++ l1Text

/-- The decoded stream of L1. -/
def l1Stream : Bytes := [0x00#8, 0x04#8, 0x01#8, 0x02#8, 0x03#8, 0x04#8, 0x0D#8, 0x03#8]

/-- V-RX-9 before its last newline: six decoded bytes, and the line of the third frame. -/
def lastLine : State := rxState ref (l1Stream.take 6) 4#16 ([0x04#8, 0x14#8] ++ ascii ['D', 'Q', 'M', '='])

/-- The response `ST_OK` with no payload. -/
def okResponse : Response := { status := .ok, payload := .empty }

/-- The invariant, clause by clause, for a state with no TX_PACKET in progress. -/
theorem inv_of {s : State} (line : Bytes)
    (h : s.cfg.Admissible ∧ s.rawBuf.wf = true ∧ s.rawBuf.within s.cfg.rawCap = true ∧ s.encBuf.wf = true ∧
      s.encBuf.within s.cfg.encCap = true ∧ (s.rawBuf.readBytes 0 s.rawOffset).isSome = true ∧
      s.encBuf.readBytes 0 s.encodedLen = some line ∧ newline ∉ line ∧
      (s.rawOffset = 0 ∨
        (2 ≤ s.rawOffset ∧ s.rawOffset ≤ s.cfg.rawCap ∧ s.rawOffset ≤ s.declaredBodyLen.toNat + 3)) ∧
      s.encodedLen ≤ s.cfg.encCap ∧ s.txWork = none) : Inv s := by
  obtain ⟨h1, h2, h3, h4, h5, h6, h7, h8, h9, h10, h11⟩ := h
  exact ⟨h1, h2, h3, h4, h5, h6, ⟨line, h7, h8⟩, h9, h10, fun w hw => by rw [h11] at hw; cases hw⟩

/-! ### Well-formedness: a payload of 65536 bytes has no LEN16 -/

theorem replicate_fits (n : Nat) : PayloadFits (List.replicate n 0x00#8) ↔ n ≤ 65535 := by
  simp [PayloadFits]

/-- One byte more than LEN16 can count. -/
theorem too_long : ¬ PayloadFits (List.replicate 65536 0x00#8) := fun h =>
  absurd ((replicate_fits 65536).mp h) (by decide)

theorem test_wf_refuses_txPacket : ¬ (Instr.txPacket (List.replicate 65536 0x00#8)).WellFormed := too_long
theorem test_wf_refuses_crc16 : ¬ (Instr.crc16 (List.replicate 65536 0x00#8)).WellFormed := too_long
theorem test_wf_refuses_b64Encode : ¬ (Instr.b64Encode true 0#16 (List.replicate 65536 0x00#8)).WellFormed := too_long
theorem test_wf_refuses_b64Decode : ¬ (Instr.b64Decode 0#16 (List.replicate 65536 0x00#8)).WellFormed := too_long
theorem test_wf_refuses_b64DecLen : ¬ (Instr.b64DecLen (List.replicate 65536 0x00#8)).WellFormed := too_long
theorem test_wf_accepts_the_longest : (Instr.crc16 (List.replicate 65535 0x00#8)).WellFormed :=
  (replicate_fits 65535).mpr (by decide)

/-! ### Decoding: words written out from the opcode map (30_encoding.md R69 to R72) -/

theorem test_decode_rxReset : decode .rx [0b00000001#8, 0b00000000#8] = .command .rxReset [] := by decide +kernel
theorem test_decode_rxFeed :
    decode .rx [0b00000010#8, 0b10000001#8, 0xAA#8] = .command (.rxFeed 0x81#8) [0xAA#8] := by decide +kernel
theorem test_decode_txPacket :
    decode .tx [0b00010000#8, 0b00000000#8, 0x00#8, 0x02#8, 0x11#8, 0x22#8, 0x33#8] =
      .command (.txPacket [0x11#8, 0x22#8]) [0x33#8] := by decide +kernel
theorem test_decode_crc16 :
    decode .tx [0b00100000#8, 0b00000000#8, 0x00#8, 0x01#8, 0x11#8] = .command (.crc16 [0x11#8]) [] := by decide +kernel
theorem test_decode_b64Encode_padded :
    decode .tx [0b00100001#8, 0b00000001#8, 0x12#8, 0x34#8, 0x00#8, 0x01#8, 0x11#8] =
      .command (.b64Encode true 0x1234#16 [0x11#8]) [] := by decide +kernel
theorem test_decode_b64Encode_plain :
    decode .tx [0b00100001#8, 0b00000000#8, 0x12#8, 0x34#8, 0x00#8, 0x00#8] =
      .command (.b64Encode false 0x1234#16 []) [] := by decide +kernel
theorem test_decode_b64Decode :
    decode .tx [0b00100010#8, 0b00000000#8, 0x00#8, 0x10#8, 0x00#8, 0x01#8, 0x41#8] =
      .command (.b64Decode 0x0010#16 [0x41#8]) [] := by decide +kernel
theorem test_decode_b64DecLen :
    decode .tx [0b00100011#8, 0b00000000#8, 0x00#8, 0x01#8, 0x41#8] = .command (.b64DecLen [0x41#8]) [] := by decide +kernel

/-- V-ENC-2, V-ENC-6, V-ENC-8, V-ENC-10 and V-ENC-11: illegal words. -/
theorem test_decode_illegal :
    decodeHead .rx 0x0101#16 = .error (.reservedImm 0x01#8 0x01#8) ∧
    decodeHead .tx 0x0201#16 = .error (.wrongPort (.rxFeed 0x01#8)) ∧
    decodeHead .rx 0x1000#16 = .error (.wrongPort .txPacket) ∧
    decodeHead .tx 0x1001#16 = .error (.reservedImm 0x10#8 0x01#8) ∧
    decodeHead .tx 0x2102#16 = .error (.reservedImm 0x21#8 0x02#8) ∧
    decodeHead .tx 0x21FF#16 = .error (.reservedImm 0x21#8 0xFF#8) ∧
    decodeHead .rx 0x0F00#16 = .error (.reservedOpcode 0x0F#8) ∧
    decodeHead .tx 0x2400#16 = .error (.reservedOpcode 0x24#8) := by decide +kernel

/-- Part of a command is no command yet (log entry 10). -/
theorem test_decode_waits :
    decode .tx [0x20#8, 0x00#8, 0x00#8, 0x02#8, 0x11#8] = .incomplete ∧ decode .rx [0x02#8] = .incomplete := by
  decide +kernel

/-- The words of the opcode table. -/
theorem test_table_words :
    decodeTableWord 16 0x0100 = some .rxReset ∧ decodeTableWord 16 0x020A = some (.rxFeed 0x0A#8) ∧
    decodeTableWord 16 0x1000 = some (.txPacket []) ∧ decodeTableWord 16 0x2000 = some (.crc16 []) ∧
    decodeTableWord 16 0x2101 = some (.b64Encode true 0#16 []) ∧ decodeTableWord 16 0x2200 = some (.b64Decode 0#16 []) ∧
    decodeTableWord 16 0x2300 = some (.b64DecLen []) ∧ decodeTableWord 16 0x2103 = none := by decide +kernel

/-- A second word counts its bits on from bit 16: `2000 0001 AB..`. -/
theorem test_table_words_count_on : decodeTableWord 48 0xAB0000012000 = some (.crc16 [0xAB#8]) := by decide +kernel

/-! ### One step of each command -/

/-- V-RX-22: RX_RESET forgets the packet. -/
theorem test_rxReset :
    (ask (exec .rxReset lastLine)).map (fun t => (t.rawOffset, t.encodedLen, t.declaredBodyLen, t.rxResponses)) =
      some (0, 0, 0#16, [okResponse]) := by decide +kernel

/-- V-RX-9: the newline of the third frame completes the packet. -/
theorem test_rxFeed_completes :
    (ask (exec (.rxFeed 0x0A#8) lastLine)).map
        (fun t => (t.rawOffset, t.encodedLen, t.declaredBodyLen, t.rxResponses)) =
      some (0, 0, 4#16, [{ status := .packet, payload := .data [0x01#8, 0x02#8, 0x03#8, 0x04#8] }]) := by decide +kernel

/-- V-RX-18 with a window of three bytes: the byte that finds it full drops the packet and starts a new line. -/
theorem test_rxFeed_overflows :
    (ask (exec (.rxFeed 0x79#8) (rxState least [0x00#8, 0x04#8, 0x01#8] 4#16 [0x7A#8, 0x7A#8, 0x7A#8]))).map
        (fun t => (t.rawOffset, t.encodedLen, t.declaredBodyLen, t.encBuf.read? 0, t.rxResponses)) =
      some (0, 1, 4#16, some 0x79#8, [okResponse]) := by decide +kernel

/-- L1: TX_PACKET offers the one frame of its body, and with no answer it waits. -/
theorem test_txPacket_offers :
    (ask (exec (.txPacket [0x01#8, 0x02#8, 0x03#8, 0x04#8]) State.reset)).map (fun t => (t.sinkOffers, t.txResponses)) =
      some ([[0x06#8, 0x09#8, 0x41#8, 0x41#8, 0x51#8, 0x42#8, 0x41#8, 0x67#8, 0x4D#8, 0x45#8, 0x44#8, 0x51#8, 0x4D#8,
        0x3D#8, 0x0A#8]], []) := by decide +kernel

/-- R175: an error of the sink ends TX_PACKET with `ST_ERR_SEND`. -/
theorem test_txPacket_fails :
    (ask (txTurns 1 (after (exec (.txPacket [0x41#8])
        { State.reset with sinkAnswers := [.err { tag := 7 }] })))).map (fun t => (t.txResponses, t.txWork)) =
      some ([{ status := .errSend, payload := .sinkErr { tag := 7 } }], none) := by decide +kernel

/-- V-CRC-12. -/
theorem test_crc16 :
    (ask (exec (.crc16 (ascii ['1', '2', '3', '4', '5', '6', '7', '8', '9'])) State.reset)).map (·.txResponses) =
      some [{ status := .ok, payload := .val16 0x31C3#16 }] := by decide +kernel

/-- V-B64-28: the text fits exactly. -/
theorem test_b64Encode_fits :
    (ask (exec (.b64Encode false 6#16 [0x01#8, 0x02#8, 0x03#8, 0x04#8]) State.reset)).map (·.txResponses) =
      some [{ status := .ok, payload := .data (ascii ['A', 'Q', 'I', 'D', 'B', 'A']) }] := by decide +kernel

/-- V-B64-29: one byte short. -/
theorem test_b64Encode_needs_more :
    (ask (exec (.b64Encode true 7#16 [0x01#8, 0x02#8, 0x03#8, 0x04#8]) State.reset)).map (·.txResponses) =
      some [{ status := .errCap, payload := .val16 8#16 }] := by decide +kernel

/-- V-B64-31. -/
theorem test_b64Decode :
    (ask (exec (.b64Decode 16#16 (ascii ['A', 'Q', 'I', 'D', 'B', 'A', '=', '='])) State.reset)).map (·.txResponses) =
      some [{ status := .ok, payload := .data [0x01#8, 0x02#8, 0x03#8, 0x04#8] }] := by decide +kernel

/-- V-B64-34: validity comes before capacity. -/
theorem test_b64Decode_unused_bits :
    (ask (exec (.b64Decode 0#16 (ascii ['A', 'R', '=', '='])) State.reset)).map (·.txResponses) =
      some [{ status := .errB64, payload := .empty }] := by decide +kernel

/-- V-B64-36. -/
theorem test_b64DecLen :
    (ask (exec (.b64DecLen l1Text) State.reset)).map (·.txResponses) =
      some [{ status := .ok, payload := .val16 8#16 }] := by decide +kernel

/-- V-B64-37. -/
theorem test_b64DecLen_fails :
    (ask (exec (.b64DecLen (ascii ['A', 'Q', '='])) State.reset)).map (·.txResponses) =
      some [{ status := .errB64, payload := .empty }] := by decide +kernel

/-- V-ENC-12: an illegal word is answered and takes no operands. -/
theorem test_illegal_word :
    (ask (txTurn { State.reset with txIn := [0x7F#8, 0x00#8, 0x00#8, 0x04#8] })).map (fun t => (t.txIn, t.txResponses)) =
      some ([0x00#8, 0x04#8], [{ status := .errIllegal, payload := .empty }]) := by decide +kernel

/-- The very next step runs the command placed by `withFetchWord`. -/
theorem test_withFetchWord :
    (ask (step (State.reset.withFetchWord 16 0x0241))).map (fun t => (t.encBuf, t.encodedLen)) =
      some ([(0, 0x41#8)], 1) ∧
    (ask (step (State.reset.withFetchWord 16 0x2000))).map (·.txResponses) =
      some [{ status := .ok, payload := .val16 0#16 }] := by decide +kernel

/-! ### The assembler -/

theorem test_asm_feed : Asm.assembleLine ['F', 'E', 'E', 'D', ' ', '0', 'x', '0', 'A'] = some [.rxFeed 0x0A#8] := by
  decide +kernel

theorem test_asm_b64 :
    Asm.assembleLine ['B', '6', '4', 'E', 'N', 'C', '.', 'N', 'P', ' ', '6', ',', ' ', '[', '0', '1', ' ', '0', '2', ']'] =
      some [.b64Encode false 6#16 [0x01#8, 0x02#8]] := by decide +kernel

theorem test_asm_feedLine :
    Asm.assembleLine (['F', 'E', 'E', 'D', 'L', 'I', 'N', 'E', ' ', Asm.quote, 'l', 's', Asm.quote, ' ', ';', 'x']) =
      some [.rxFeed 0x6C#8, .rxFeed 0x73#8, .rxFeed 0x0A#8] := by decide +kernel

/-! ### Witnesses: for every statement with hypotheses, a state and operands that meet all of them -/

theorem reset_inv : Inv State.reset := inv_of [] (by decide +kernel)

theorem lastLine_inv : Inv lastLine := inv_of ([0x04#8, 0x14#8] ++ ascii ['D', 'Q', 'M', '=']) (by decide +kernel)

/-- A TX_PACKET whose first frame is offered and not yet answered. -/
def waitingTx : State :=
  { State.reset with txWork := some { txLoad 31 [0x01#8, 0x02#8] with phase := .waiting } }

theorem waitingTx_inv : Inv waitingTx := by
  have h := reset_inv
  refine ⟨h.1, h.2, h.3, h.4, h.5, h.6, h.7, h.8, h.9, fun w hw => ?_⟩
  cases hw
  exact ⟨⟨[0x01#8, 0x02#8], by decide, rfl⟩, by decide +kernel, fun _ => by decide +kernel⟩

theorem witness_DecodeOfEncodeIsTheCommand :
    (Instr.b64Encode true 16#16 [0x01#8]).WellFormed ∧ (Instr.crc16 (List.replicate 65535 0x00#8)).WellFormed :=
  ⟨by decide, (replicate_fits 65535).mpr (by decide)⟩

theorem witness_DecodedCommandWasEncoded :
    decode .tx [0x22#8, 0x00#8, 0x00#8, 0x03#8, 0x00#8, 0x01#8, 0x41#8, 0x02#8] =
      .command (.b64Decode 3#16 [0x41#8]) [0x02#8] := by decide +kernel

theorem witness_StepRunsTheDecodedCommand :
    (∃ s : State, s.script = [.rxTurn, .takeRx] ∧ s.rxUntaken = false ∧
      decode .rx s.rxIn = .command (.rxFeed 0x41#8) [0x01#8]) ∧
    (∃ s : State, s.script = [.txTurn] ∧ s.txWork = none ∧ decode .tx s.txIn = .command (.crc16 []) []) ∧
    (∃ s : State, s.script = [] ∧ s.rxUntaken = false ∧ decode .rx s.rxIn = .command .rxReset []) ∧
    (∃ s : State, s.script = [] ∧ s.rxUntaken = true ∧ s.txWork = none ∧
      decode .tx s.txIn = .command (.crc16 []) []) ∧
    (∃ s : State, s.script = [] ∧ decode .rx s.rxIn = .incomplete ∧ s.txWork = none ∧
      decode .tx s.txIn = .command (.txPacket []) []) :=
  ⟨⟨{ State.reset with script := [.rxTurn, .takeRx], rxIn := [0x02#8, 0x41#8, 0x01#8] }, by decide +kernel⟩,
   ⟨{ State.reset with script := [.txTurn], txIn := [0x20#8, 0x00#8, 0x00#8, 0x00#8] }, by decide +kernel⟩,
   ⟨{ State.reset with rxIn := [0x01#8, 0x00#8] }, by decide +kernel⟩,
   ⟨{ State.reset with rxUntaken := true, txIn := [0x20#8, 0x00#8, 0x00#8, 0x00#8] }, by decide +kernel⟩,
   ⟨{ State.reset with rxIn := [0x02#8], txIn := [0x10#8, 0x00#8, 0x00#8, 0x00#8] }, by decide +kernel⟩⟩

/-- V-ENC-2 and V-ENC-6. -/
theorem witness_IllegalWordIsAnsweredAndChangesNothing :
    (∃ s : State, s.rxUntaken = false ∧ s.rxIn = 0x01#8 :: 0x01#8 :: [0x02#8] ∧
      ∀ h : Head, h.port = .rx → be16 0x01#8 0x01#8 ≠ h.word) ∧
    (∃ s : State, s.txWork = none ∧ s.txIn = 0x02#8 :: 0x01#8 :: [] ∧
      ∀ h : Head, h.port = .tx → be16 0x02#8 0x01#8 ≠ h.word) := by
  refine ⟨⟨{ State.reset with rxIn := [0x01#8, 0x01#8, 0x02#8] }, rfl, rfl, fun h hp => ?_⟩,
    ⟨{ State.reset with txIn := [0x02#8, 0x01#8] }, rfl, rfl, fun h hp => ?_⟩⟩
  · cases h with
    | rxFeed b => clear hp; revert b; decide +kernel
    | rxReset => decide +kernel
    | _ => cases hp
  · cases h with
    | rxFeed b => cases hp
    | rxReset => cases hp
    | b64Encode pad => cases pad <;> decide +kernel
    | _ => decide +kernel

theorem witness_HeldCommandsWait :
    ({ State.reset with rxUntaken := true, rxIn := [0x01#8, 0x00#8] } : State).rxUntaken = true ∧
    waitingTx.txWork = some { txLoad 31 [0x01#8, 0x02#8] with phase := .waiting } := ⟨rfl, rfl⟩

theorem witness_EnvironmentMovesAreTheirEffects :
    (State.reset.withMove .takeRx).script = .takeRx :: [] ∧
    (State.reset.withMove (.issueRx [0x02#8])).script = .issueRx [0x02#8] :: [] ∧
    (State.reset.withMove (.issueTx [])).script = .issueTx [] :: [] ∧
    (State.reset.withMove (.answer .ok)).script = .answer .ok :: [] := ⟨rfl, rfl, rfl, rfl⟩

/-- A command behind an untaken response, one behind a failed TX_PACKET, one behind a TX_PACKET with every frame sent. -/
theorem witness_HeldCommandRunsAfterTheResponse :
    (∃ s : State, s.script = .takeRx :: .rxTurn :: [] ∧ s.rxUntaken = true ∧
      decode .rx s.rxIn = .command (.rxFeed 0x41#8) []) ∧
    (∃ (s : State) (w : TxWork), s.txWork = some w ∧ w.phase = .failed { tag := 1 } ∧
      decode .tx s.txIn = .command (.crc16 []) []) ∧
    (∃ (s : State) (w : TxWork), s.txWork = some w ∧ w.phase = .offering ∧ w.frames.length ≤ w.next ∧
      decode .tx s.txIn = .command (.crc16 []) []) :=
  ⟨⟨{ State.reset with script := [.takeRx, .rxTurn], rxUntaken := true, rxIn := [0x02#8, 0x41#8] }, by decide +kernel⟩,
   ⟨{ State.reset with
        txWork := some { txLoad 31 [] with phase := .failed { tag := 1 } }, txIn := [0x20#8, 0x00#8, 0x00#8, 0x00#8] },
    _, rfl, rfl, by decide +kernel⟩,
   ⟨{ State.reset with txWork := some { txLoad 31 [] with next := 1 }, txIn := [0x20#8, 0x00#8, 0x00#8, 0x00#8] },
    _, rfl, rfl, by decide +kernel, by decide +kernel⟩⟩

theorem witness_LaterBytesWaitTheirTurn :
    decode .rx [0x02#8, 0x41#8, 0x01#8] = .command (.rxFeed 0x41#8) [0x01#8] ∧
    decode .tx [0x21#8, 0x03#8] = .illegal (.reservedImm 0x21#8 0x03#8) [] := by decide +kernel

theorem witness_EnginesShareNoState :
    rxTurn { lastLine with rxIn := [0x02#8, 0x0A#8] } = .next (after (rxTurn { lastLine with rxIn := [0x02#8, 0x0A#8] })) ∧
    txTurn { waitingTx with sinkAnswers := [.ok] } = .next (after (txTurn { waitingTx with sinkAnswers := [.ok] })) :=
  ⟨next_after (by decide +kernel), next_after (by decide +kernel)⟩

theorem witness_CopiesShareNothing :
    ∃ t, systemStep 1 [State.reset, lastLine] = .next [State.reset, t] ∧ [State.reset, lastLine][1]? = some lastLine ∧
      step lastLine = .next t :=
  ⟨lastLine, by rfl, rfl, by rfl⟩

theorem witness_PowerOnAbandonsTheCommand :
    ({ waitingTx with script := [.powerOn, .txTurn] } : State).script = .powerOn :: [.txTurn] ∧
    ({ waitingTx with script := [.powerOn, .txTurn] } : State).txWork ≠ none := by
  constructor
  · rfl
  · intro h; cases h

/-- The window full, one short of full, and empty. -/
theorem witness_OrdinaryByteIsStored :
    (0x0B#8 : Byte) ≠ 0x0A#8 ∧ least.Admissible ∧
    (rxState least [0x00#8, 0x04#8] 4#16 (ascii ['a', 'b', 'c'])).encodedLen = least.encCap ∧
    (rxState least [0x00#8, 0x04#8] 4#16 (ascii ['a', 'b'])).encodedLen < least.encCap ∧
    (rxState least [] 0#16 []).encodedLen < least.encCap := by decide +kernel

theorem witness_AmongFedBytesOnlyNewlineEmptiesTheWindow :
    exec (.rxFeed 0x0A#8) lastLine = .next (after (exec (.rxFeed 0x0A#8) lastLine)) ∧
    exec (.rxFeed 0x00#8) lastLine = .next (after (exec (.rxFeed 0x00#8) lastLine)) :=
  ⟨next_after (by decide +kernel), next_after (by decide +kernel)⟩

/-- A line of one byte (V-RX-5), an unknown tag, an orphan (V-RX-3), a text that is not Base64 (V-RX-7), a packet-start frame
and a continuation one byte too long for `raw_buf`, and a packet-start frame of one byte (V-RX-6). -/
theorem witness_MalformedLineIsDiscarded :
    (Inv (rxState ref [] 0#16 [0x06#8]) ∧ CurrentLine (rxState ref [] 0#16 [0x06#8]) [0x06#8] ∧
      Malformed 512 0 [0x06#8]) ∧
    (Inv (rxState ref [] 0#16 [0x06#8, 0x0B#8]) ∧ CurrentLine (rxState ref [] 0#16 [0x06#8, 0x0B#8]) [0x06#8, 0x0B#8] ∧
      Malformed 512 0 [0x06#8, 0x0B#8]) ∧
    (Inv (rxState ref [] 0#16 ([0x04#8, 0x14#8] ++ ascii ['A', 'A', 'A', 'A'])) ∧
      CurrentLine (rxState ref [] 0#16 ([0x04#8, 0x14#8] ++ ascii ['A', 'A', 'A', 'A']))
        ([0x04#8, 0x14#8] ++ ascii ['A', 'A', 'A', 'A']) ∧
      Malformed 512 0 ([0x04#8, 0x14#8] ++ ascii ['A', 'A', 'A', 'A'])) ∧
    (Inv (rxState ref [0x00#8, 0x04#8] 4#16 ([0x06#8, 0x09#8] ++ ascii ['A', 'A', 'Q'])) ∧
      CurrentLine (rxState ref [0x00#8, 0x04#8] 4#16 ([0x06#8, 0x09#8] ++ ascii ['A', 'A', 'Q']))
        ([0x06#8, 0x09#8] ++ ascii ['A', 'A', 'Q']) ∧
      Malformed 512 2 ([0x06#8, 0x09#8] ++ ascii ['A', 'A', 'Q'])) ∧
    (Inv (rxState { ref with rawCap := 7 } [] 0#16 l1Line) ∧ CurrentLine (rxState { ref with rawCap := 7 } [] 0#16 l1Line) l1Line ∧
      Malformed 7 0 l1Line) ∧
    (Inv { lastLine with cfg := { ref with rawCap := 7 } } ∧
      CurrentLine { lastLine with cfg := { ref with rawCap := 7 } } ([0x04#8, 0x14#8] ++ ascii ['D', 'Q', 'M', '=']) ∧
      Malformed 7 6 ([0x04#8, 0x14#8] ++ ascii ['D', 'Q', 'M', '='])) ∧
    (Inv (rxState ref [] 0#16 ([0x06#8, 0x09#8] ++ ascii ['A', 'A', '=', '='])) ∧
      CurrentLine (rxState ref [] 0#16 ([0x06#8, 0x09#8] ++ ascii ['A', 'A', '=', '=']))
        ([0x06#8, 0x09#8] ++ ascii ['A', 'A', '=', '=']) ∧
      Malformed 512 0 ([0x06#8, 0x09#8] ++ ascii ['A', 'A', '=', '='])) :=
  ⟨⟨inv_of [0x06#8] (by decide +kernel), by unfold CurrentLine; decide +kernel, .inl (by decide)⟩,
   ⟨inv_of [0x06#8, 0x0B#8] (by decide +kernel), by unfold CurrentLine; decide +kernel, .inr (.inl (by decide +kernel))⟩,
   ⟨inv_of ([0x04#8, 0x14#8] ++ ascii ['A', 'A', 'A', 'A']) (by decide +kernel), by unfold CurrentLine; decide +kernel,
    .inr (.inr (.inl (by decide +kernel)))⟩,
   ⟨inv_of ([0x06#8, 0x09#8] ++ ascii ['A', 'A', 'Q']) (by decide +kernel), by unfold CurrentLine; decide +kernel,
    .inr (.inr (.inr (.inl (by decide +kernel))))⟩,
   ⟨inv_of l1Line (by decide +kernel), by unfold CurrentLine; decide +kernel,
    .inr (.inr (.inr (.inr ⟨l1Stream, by decide +kernel, .inl (by decide +kernel)⟩)))⟩,
   ⟨inv_of ([0x04#8, 0x14#8] ++ ascii ['D', 'Q', 'M', '=']) (by decide +kernel), by unfold CurrentLine; decide +kernel,
    .inr (.inr (.inr (.inr ⟨[0x0D#8, 0x03#8], by decide +kernel, .inr (.inl (by decide +kernel))⟩)))⟩,
   ⟨inv_of ([0x06#8, 0x09#8] ++ ascii ['A', 'A', '=', '=']) (by decide +kernel), by unfold CurrentLine; decide +kernel,
    .inr (.inr (.inr (.inr ⟨[0x00#8], by decide +kernel, .inr (.inr (by decide +kernel))⟩)))⟩⟩

/-- A packet-start frame one byte too long for `raw_buf`, a continuation one byte too long, and packet-start frames of one byte
and of none: the last two clauses. -/
theorem witness_DiscardedLineIsNamedByItsFirstDefect_cap_short :
    (Inv (rxState { ref with rawCap := 7 } [] 0#16 l1Line) ∧ CurrentLine (rxState { ref with rawCap := 7 } [] 0#16 l1Line) l1Line ∧
      b64Dec (l1Line.drop 2) = some l1Stream ∧ l1Line.take 2 = [0x06#8, 0x09#8] ∧ 7 < l1Stream.length) ∧
    (Inv { lastLine with cfg := { ref with rawCap := 7 } } ∧
      CurrentLine { lastLine with cfg := { ref with rawCap := 7 } } ([0x04#8, 0x14#8] ++ ascii ['D', 'Q', 'M', '=']) ∧
      b64Dec (ascii ['D', 'Q', 'M', '=']) = some [0x0D#8, 0x03#8] ∧
      (scratchOverflow { lastLine with cfg := { ref with rawCap := 7 } }).rawOffset = 6 ∧ 7 < 6 + 2) ∧
    (Inv (rxState ref [] 0#16 ([0x06#8, 0x09#8] ++ ascii ['A', 'A', '=', '='])) ∧
      CurrentLine (rxState ref [] 0#16 ([0x06#8, 0x09#8] ++ ascii ['A', 'A', '=', '=']))
        ([0x06#8, 0x09#8] ++ ascii ['A', 'A', '=', '=']) ∧
      b64Dec (ascii ['A', 'A', '=', '=']) = some [0x00#8]) ∧
    (Inv (rxState ref [] 0#16 [0x06#8, 0x09#8]) ∧ CurrentLine (rxState ref [] 0#16 [0x06#8, 0x09#8]) [0x06#8, 0x09#8] ∧
      b64Dec [] = some []) :=
  ⟨⟨inv_of l1Line (by decide +kernel), by unfold CurrentLine; decide +kernel, by decide +kernel⟩,
   ⟨inv_of ([0x04#8, 0x14#8] ++ ascii ['D', 'Q', 'M', '=']) (by decide +kernel), by unfold CurrentLine; decide +kernel,
    by decide +kernel⟩,
   ⟨inv_of ([0x06#8, 0x09#8] ++ ascii ['A', 'A', '=', '=']) (by decide +kernel), by unfold CurrentLine; decide +kernel,
    by decide +kernel⟩,
   ⟨inv_of [0x06#8, 0x09#8] (by decide +kernel), by unfold CurrentLine; decide +kernel, by decide +kernel⟩⟩

/-- The empty line, an orphan, a packet-start frame and a continuation whose text is not Base64: the first three clauses. -/
theorem witness_DiscardedLineIsNamedByItsFirstDefect :
    (Inv State.reset ∧ CurrentLine State.reset [] ∧
      (([] : Bytes).take 2 ≠ [0x06#8, 0x09#8] ∧ ([] : Bytes).take 2 ≠ [0x04#8, 0x14#8])) ∧
    (Inv (rxState ref [] 0#16 [0x04#8, 0x14#8]) ∧ CurrentLine (rxState ref [] 0#16 [0x04#8, 0x14#8]) [0x04#8, 0x14#8] ∧
      (scratchOverflow (rxState ref [] 0#16 [0x04#8, 0x14#8])).rawOffset = 0) ∧
    (Inv (rxState ref [] 0#16 [0x06#8, 0x09#8, 0x41#8]) ∧
      CurrentLine (rxState ref [] 0#16 [0x06#8, 0x09#8, 0x41#8]) [0x06#8, 0x09#8, 0x41#8] ∧ b64Dec [0x41#8] = none) ∧
    (Inv (rxState ref [0x00#8, 0x04#8] 4#16 [0x04#8, 0x14#8, 0x41#8]) ∧
      CurrentLine (rxState ref [0x00#8, 0x04#8] 4#16 [0x04#8, 0x14#8, 0x41#8]) [0x04#8, 0x14#8, 0x41#8] ∧
      (scratchOverflow (rxState ref [0x00#8, 0x04#8] 4#16 [0x04#8, 0x14#8, 0x41#8])).rawOffset ≠ 0) :=
  ⟨⟨reset_inv, by unfold CurrentLine; decide +kernel, by decide +kernel⟩,
   ⟨inv_of [0x04#8, 0x14#8] (by decide +kernel), by unfold CurrentLine; decide +kernel, by decide +kernel⟩,
   ⟨inv_of [0x06#8, 0x09#8, 0x41#8] (by decide +kernel), by unfold CurrentLine; decide +kernel, by decide +kernel⟩,
   ⟨inv_of [0x04#8, 0x14#8, 0x41#8] (by decide +kernel), by unfold CurrentLine; decide +kernel, by decide +kernel⟩⟩

/-- The premises of AcceptedFrameIsCommittedAndJudged for a state, a line, its bytes and its tag. -/
def Accepted (s : State) (line r : Bytes) (start : Bool) (base : Nat) : Prop :=
  Inv s ∧ CurrentLine s line ∧
    line.take 2 = (if start then [0x06#8, 0x09#8] else [0x04#8, 0x14#8]) ∧
    base = (if start then 0 else (scratchOverflow s).rawOffset) ∧
    (start = false → base ≠ 0) ∧
    b64Dec (line.drop 2) = some r ∧ (start = true → 2 ≤ r.length) ∧ base + r.length ≤ s.cfg.rawCap

/-- One byte short of the total (more), exactly the total with a sound trailer (complete) and with a changed body (crc), and
one byte over it (over-length), `raw_buf` filled to its last byte in the second. -/
theorem witness_AcceptedFrameIsCommittedAndJudged :
    Accepted (rxState ref [] 0#16 ([0x06#8, 0x09#8] ++ ascii ['A', 'A', 'A', '='])) ([0x06#8, 0x09#8] ++ ascii ['A', 'A', 'A', '='])
      [0x00#8, 0x00#8] true 0 ∧
    Accepted (rxState ref [0x00#8, 0x04#8, 0x01#8, 0x02#8, 0x03#8] 4#16 ([0x04#8, 0x14#8] ++ ascii ['B', 'A', '0', '=']))
      ([0x04#8, 0x14#8] ++ ascii ['B', 'A', '0', '=']) [0x04#8, 0x0D#8] false 5 ∧
    Accepted { lastLine with cfg := { ref with rawCap := 8 } } ([0x04#8, 0x14#8] ++ ascii ['D', 'Q', 'M', '='])
      [0x0D#8, 0x03#8] false 6 ∧
    Accepted (rxState ref [0x00#8, 0x04#8, 0x01#8, 0x02#8, 0x03#8, 0x05#8] 4#16
        ([0x04#8, 0x14#8] ++ ascii ['D', 'Q', 'M', '='])) ([0x04#8, 0x14#8] ++ ascii ['D', 'Q', 'M', '='])
      [0x0D#8, 0x03#8] false 6 ∧
    Accepted (rxState ref (l1Stream.take 6) 4#16 ([0x04#8, 0x14#8] ++ ascii ['D', 'Q', 'M', 'A']))
      ([0x04#8, 0x14#8] ++ ascii ['D', 'Q', 'M', 'A']) [0x0D#8, 0x03#8, 0x00#8] false 6 := by
  refine ⟨⟨inv_of ([0x06#8, 0x09#8] ++ ascii ['A', 'A', 'A', '=']) (by decide +kernel), ?_, by decide +kernel⟩,
    ⟨inv_of ([0x04#8, 0x14#8] ++ ascii ['B', 'A', '0', '=']) (by decide +kernel), ?_, by decide +kernel⟩,
    ⟨inv_of ([0x04#8, 0x14#8] ++ ascii ['D', 'Q', 'M', '=']) (by decide +kernel), ?_, by decide +kernel⟩,
    ⟨inv_of ([0x04#8, 0x14#8] ++ ascii ['D', 'Q', 'M', '=']) (by decide +kernel), ?_, by decide +kernel⟩,
    ⟨inv_of ([0x04#8, 0x14#8] ++ ascii ['D', 'Q', 'M', 'A']) (by decide +kernel), ?_, by decide +kernel⟩⟩ <;>
    (unfold CurrentLine; decide +kernel)

theorem witness_RxFeedFrame :
    exec (.rxFeed 0x0A#8) lastLine = .next (after (exec (.rxFeed 0x0A#8) lastLine)) ∧
    (∃ a, a ≠ scratchIndex lastLine) ∧ (∃ a, StoresRaw 0x0A#8 lastLine a) ∧ (∃ a, ¬ StoresRaw 0x41#8 lastLine a) := by
  refine ⟨next_after (by decide +kernel), ⟨0, by decide +kernel⟩,
    ⟨7, false, 6, [0x0D#8, 0x03#8], by decide +kernel, by decide, by decide⟩, ⟨7, ?_⟩⟩
  rintro ⟨start, base, r, h, -⟩
  have : feedVerdict 0x41#8 lastLine = none := by decide +kernel
  rw [this] at h
  cases h

theorem witness_RxFeedRefinesTheListDecoder :
    Inv lastLine ∧ Views lastLine
      { stream := l1Stream.take 6, line := [0x04#8, 0x14#8] ++ ascii ['D', 'Q', 'M', '='], declared := 4#16 } :=
  ⟨lastLine_inv, by unfold Views; decide +kernel⟩

theorem witness_DeliveredPacketHasTheDeclaredLength :
    exec (.rxFeed 0x0A#8) lastLine = .next (after (exec (.rxFeed 0x0A#8) lastLine)) ∧
    (after (exec (.rxFeed 0x0A#8) lastLine)).rxResponses =
      lastLine.rxResponses ++ [{ status := .packet, payload := .data [0x01#8, 0x02#8, 0x03#8, 0x04#8] }] :=
  ⟨next_after (by decide +kernel), by decide +kernel⟩

/-- Both cases of OnlyCompletionIsReported. -/
theorem witness_OnlyCompletionIsReported :
    (exec (.rxFeed 0x0A#8) lastLine = .next (after (exec (.rxFeed 0x0A#8) lastLine)) ∧
      (after (exec (.rxFeed 0x0A#8) lastLine)).ev = .complete) ∧
    (exec (.rxFeed 0x0A#8) State.reset = .next (after (exec (.rxFeed 0x0A#8) State.reset)) ∧
      (after (exec (.rxFeed 0x0A#8) State.reset)).ev = .notFrame) :=
  ⟨⟨next_after (by decide +kernel), by decide +kernel⟩, next_after (by decide +kernel), by decide +kernel⟩

theorem witness_CrcDetectsAChangeOfTwoAdjacentBytes : (0x01#8 : Byte) ≠ 0x01#8 ∨ (0x02#8 : Byte) ≠ 0x03#8 := by decide

/-- V-RX-10: a line of text in the middle of a packet. -/
theorem witness_InterleavedLineLeavesThePacket :
    Inv (rxState ref (l1Stream.take 3) 4#16 []) ∧ (0x0A#8 : Byte) ∉ [0x78#8] ∧ [0x78#8].length + 1 ≤ ref.encCap ∧
      Malformed ref.rawCap 3 [0x78#8] :=
  ⟨inv_of [] (by decide +kernel), by decide, by decide, .inl (by decide)⟩

/-- Two states that differ in a byte beyond each offset. -/
theorem witness_UnobservableBytesDoNotMatter :
    Inv { State.reset with rawBuf := [(3, 0x55#8)], encBuf := [(0, 0x0A#8)], rxIn := [0x02#8, 0x0A#8] } ∧
    Inv { State.reset with rxIn := [0x02#8, 0x0A#8] } ∧
    SameObservable { State.reset with rawBuf := [(3, 0x55#8)], encBuf := [(0, 0x0A#8)], rxIn := [0x02#8, 0x0A#8] }
      { State.reset with rxIn := [0x02#8, 0x0A#8] } ∧
    (ask (step { State.reset with rawBuf := [(3, 0x55#8)], encBuf := [(0, 0x0A#8)], rxIn := [0x02#8, 0x0A#8] })).isSome =
      true :=
  ⟨inv_of [] (by decide +kernel), inv_of [] (by decide +kernel), ⟨rfl, rfl, rfl⟩, by decide +kernel⟩

/-- A text that FAILs, one that fits exactly, one that needs a byte more. -/
theorem witness_B64DecodeCommandAnswers :
    b64Dec (ascii ['A', 'R', '=', '=']) = none ∧
    (b64Dec (ascii ['A', 'Q', 'I', 'D']) = some [0x01#8, 0x02#8, 0x03#8] ∧ 3 ≤ (3#16 : U16).toNat) ∧
    (b64Dec (ascii ['A', 'Q', 'I', 'D']) = some [0x01#8, 0x02#8, 0x03#8] ∧ (2#16 : U16).toNat < 3) := by decide +kernel

theorem witness_B64DecLenCommandAnswers :
    b64Dec (ascii ['A', 'Q', '=']) = none ∧ b64Dec (ascii ['A', 'Q', 'I', '=']) = some [0x01#8, 0x02#8] := by
  decide +kernel

theorem witness_DecLenPredictsDecode : PayloadFits l1Text ∧ PayloadFits (List.replicate 65535 0x00#8) :=
  ⟨by decide +kernel, (replicate_fits 65535).mpr (by decide)⟩

theorem witness_Base64CodecIsABijection : b64Dec l1Text = some l1Stream ∧ b64Dec [] = some [] := by decide +kernel

theorem witness_DecodedLengthFormula : decLen l1Text = some 8 ∧ decLen [] = some 0 := by decide +kernel

/-- An accepted text with each number of `=`, and R102: a text refused for its unused bits alone. -/
theorem witness_AcceptedTextIsStrictBase64 :
    b64Dec (ascii ['A', 'R', '=', '=']) = none ∧ b64Dec (ascii ['A', 'Q', 'I', '=']) = some [0x01#8, 0x02#8] ∧
    b64Dec (ascii ['A', 'Q', '=', '=']) = some [0x01#8] ∧ b64Dec (ascii ['A', 'Q', 'I', 'D']) = some [0x01#8, 0x02#8, 0x03#8] := by
  decide +kernel

theorem witness_TxPacketMakesItsFirstSend : PayloadFits [0x01#8] ∧ Quiescent State.reset := ⟨by decide, rfl⟩

/-- The body of V-TX-10 with `FRAME_GROUPS = 2`: three frames. -/
def tenBytes : Bytes :=
  [0x00#8, 0x01#8, 0x02#8, 0x03#8, 0x04#8, 0x05#8, 0x06#8, 0x07#8, 0x08#8, 0x09#8]

/-- A sink that answers `Ok` to all three frames, and one that answers `Err` to the last. -/
theorem witness_TxPacketRunsToItsResponse :
    PayloadFits tenBytes ∧ Quiescent { State.reset with cfg := { ref with frameGroups := 2 }, sinkAnswers := [.ok, .ok, .ok, .ok] } ∧
    ([.ok, .ok, .ok, .ok] : List SendAnswer) = List.replicate (packetFrames 2 tenBytes).length .ok ++ [.ok] ∧
    2 < (packetFrames 2 tenBytes).length ∧
    ([.ok, .ok, .err { tag := 1 }, .ok] : List SendAnswer) = List.replicate 2 .ok ++ .err { tag := 1 } :: [.ok] :=
  ⟨by decide, rfl, by decide +kernel, by decide +kernel, by decide⟩

theorem witness_LateAnswerIsTaken :
    ∃ w, waitingTx.txWork = some w ∧ w.phase = .waiting ∧
      ({ waitingTx with sinkAnswers := [.ok] } : State).sinkAnswers = .ok :: [] ∧
      ({ waitingTx with sinkAnswers := [.err { tag := 1 }] } : State).sinkAnswers = .err { tag := 1 } :: [] :=
  ⟨_, rfl, rfl, rfl, rfl⟩

/-- Three frames whose answers come at once, after one turn and after four; and an error to the last of them. -/
theorem witness_LateAnswersRunTxPacketToItsResponse :
    PayloadFits tenBytes ∧ Quiescent { State.reset with cfg := { ref with frameGroups := 2 } } ∧
    [0, 1, 4].length = (packetFrames 2 tenBytes).length ∧ [0, 1].length < (packetFrames 2 tenBytes).length :=
  ⟨by decide, rfl, by decide +kernel, by decide +kernel⟩

theorem witness_SilentSinkHoldsTheTxEngine :
    ∃ w, waitingTx.txWork = some w ∧ w.phase = .waiting ∧ waitingTx.sinkAnswers = [] := ⟨_, rfl, rfl, rfl⟩

theorem witness_FrameTextsAreTheEncodedStream :
    2 ≤ 2 ∧ PayloadFits tenBytes ∧ [4] ∈ splitGroups 2 tenBytes.length := by decide +kernel

/-- V-TX-10: the first and the last frame. -/
theorem witness_FramesAreTaggedLines :
    (2 : Nat) ≤ 2 ∧
    (packetFrames 2 tenBytes)[0]? = some ([0x06#8, 0x09#8] ++ ascii ['A', 'A', 'o', 'A', 'A', 'Q', 'I', 'D'] ++ [0x0A#8]) ∧
    (packetFrames 2 tenBytes)[2]? = some ([0x04#8, 0x14#8] ++ ascii ['I', '3', 'g', '='] ++ [0x0A#8]) := by decide +kernel

theorem witness_FrameCountAndLengths :
    (2 ≤ 2 ∧ 2 ≤ 31 ∧ PayloadFits tenBytes) ∧ (2 ≤ 31 ∧ 31 ≤ 31 ∧ PayloadFits (List.replicate 65535 0x00#8)) :=
  ⟨by decide, by decide, by decide, (replicate_fits 65535).mpr (by decide)⟩

theorem witness_CrcGroupsShareTheFinalFrame : 2 ≤ 2 ∧ (10 + 2) / 3 ≤ 4 ∧ 4 < (10 + 4 + 2) / 3 := by decide

/-- Nine bytes with two groups a frame: frames of 2, 1 and 2 groups, the second closed early. -/
theorem witness_FramesBeforeTheFinalOneAreFull :
    (2 : Nat) ≤ 2 ∧ (splitGroups 2 9)[0]? = some [0, 1] ∧ 0 + 1 < (splitGroups 2 9).length ∧
    (splitGroups 2 9)[1]? = some [2] ∧ 1 + 2 = (splitGroups 2 9).length := by decide +kernel

theorem witness_PseudoInstructionsExpand : PayloadFits tenBytes ∧ (2 : Nat) ≤ 2 ∧ (31 : Nat) ≤ 31 := by decide

theorem witness_EmptyBodyIsOneFrame : (2 : Nat) ≤ 2 := le_refl 2

/-- An illegal word on the RX port; a failed Send on the TX side. -/
theorem witness_ErrorStatusChangesNoState :
    (∃ s t, rxTurn s = .next t ∧ t.rxResponses = s.rxResponses ++ [Response.illegal] ∧
      Response.illegal.status.isError = true) ∧
    (∃ s t, txTurn s = .next t ∧ s.txWork ≠ none ∧
      t.txResponses = s.txResponses ++ [{ status := .errSend, payload := .sinkErr { tag := 1 } }] ∧
      Status.errSend.isError = true) :=
  ⟨⟨{ State.reset with rxIn := [0x01#8, 0x01#8] }, _, next_after (by decide +kernel), by decide +kernel, rfl⟩,
   ⟨{ State.reset with txWork := some { txLoad 31 [] with phase := .failed { tag := 1 } } }, _,
    next_after (by decide +kernel), by decide +kernel, by decide +kernel, rfl⟩⟩

theorem witness_TransmittedPacketIsDelivered :
    Inv { State.reset with cfg := { rawCap := 14, encCap := 11, frameGroups := 31 } } ∧ (2 ≤ 2 ∧ 2 ≤ 31) ∧
      PayloadFits tenBytes ∧ 2 + 4 * 2 + 1 ≤ 11 ∧ tenBytes.length + 4 ≤ 14 :=
  ⟨inv_of [] (by decide +kernel), by decide, by decide, by decide, by decide⟩

/-- A step that completes a packet, and one in the middle of a TX_PACKET. -/
theorem witness_EveryStepKeepsTheInvariant :
    (Inv { lastLine with rxIn := [0x02#8, 0x0A#8] } ∧ step { lastLine with rxIn := [0x02#8, 0x0A#8] } =
      .next (after (step { lastLine with rxIn := [0x02#8, 0x0A#8] }))) ∧
    (Inv waitingTx ∧ step waitingTx = .next (after (step waitingTx))) :=
  ⟨⟨inv_of ([0x04#8, 0x14#8] ++ ascii ['D', 'Q', 'M', '=']) (by decide +kernel), next_after (by decide +kernel)⟩,
    waitingTx_inv, next_after (by decide +kernel)⟩

theorem witness_NoStepStops : Inv lastLine ∧ Inv waitingTx := ⟨lastLine_inv, waitingTx_inv⟩

theorem witness_CountersFitTheirRegisters :
    Inv (rxState { ref with encCap := 128 } [] 0#16 (List.replicate 128 0x41#8)) :=
  inv_of (List.replicate 128 0x41#8) (by decide +kernel)

theorem witness_BuildParametersNeverChange :
    step { State.reset with script := [.powerOn] } = .next (after (step { State.reset with script := [.powerOn] })) :=
  next_after (by decide +kernel)

/-- The premise of EngineTurnsCommute, RX engine first: both engines have work. -/
theorem witness_EngineTurnsCommute :
    ∃ s t u, s.rxIn ≠ [] ∧ s.txIn ≠ [] ∧ rxTurn s = .next t ∧ txTurn t = .next u :=
  ⟨{ State.reset with rxIn := [0x02#8, 0x41#8], txIn := [0x20#8, 0x00#8, 0x00#8, 0x00#8] }, _, _, by decide, by decide,
    next_after (by decide +kernel), next_after (by decide +kernel)⟩

end Sys2Proof.Tests
end

section
/-!
PROOFS. What each part of a step can do, said once for the statements about the state (10_state.md): the commands a port
can decode, a turn and a step written forwards, and which fields each operation keeps.
-/

namespace Sys2Proof.Machine

/-! ### What a port can decode -/

/-- The operands read for a command word make a command of that word's port, and its payload fits LEN16 (R68). -/
theorem readOperands_eq_some {h : Head} {bs rest : Bytes} {i : Instr} (hr : readOperands h bs = some (i, rest)) :
    i.port = h.port ∧ i.WellFormed := by
  cases h with
  | rxReset | rxFeed =>
    cases hr
    exact ⟨rfl, trivial⟩
  | txPacket | crc16 | b64DecLen =>
    obtain ⟨⟨data, tail⟩, hp, he⟩ := Option.map_eq_some_iff.mp hr
    cases he
    exact ⟨rfl, (takePayload_eq_some hp).1⟩
  | b64Encode | b64Decode =>
    obtain ⟨⟨cap, data, tail⟩, hp, he⟩ := Option.map_eq_some_iff.mp hr
    cases he
    exact ⟨rfl, (takeCapPayload_eq_some hp).1⟩

/-- A port decodes well-formed commands of its own alone (R68, R72). -/
theorem decode_command_port {p : Port} {bs rest : Bytes} {i : Instr} (hd : decode p bs = .command i rest) :
    i.port = p ∧ i.WellFormed := by
  unfold decode at hd
  split at hd
  · cases hd
  · next w tail _ =>
    split at hd
    · cases hd
    · next h hh =>
      split at hd
      · cases hd
      · next i' rest' hr =>
        cases hd
        obtain ⟨hport, hwf⟩ := readOperands_eq_some hr
        refine ⟨hport.trans ?_, hwf⟩
        unfold decodeHead at hh
        split at hh
        · cases hh
        · split_ifs at hh with hp
          cases hh
          exact hp

/-- A command of the RX port is RX_RESET or RX_FEED (R69). -/
theorem port_eq_rx {i : Instr} (h : i.port = .rx) : i = .rxReset ∨ ∃ b, i = .rxFeed b := by
  cases i with
  | rxReset => exact .inl rfl
  | rxFeed b => exact .inr ⟨b, rfl⟩
  | _ => cases h

/-- A command of the TX port answers at once, or is TX_PACKET and makes its first `Send` (R69, R160). -/
theorem exec_tx {i : Instr} (hp : i.port = .tx) (hw : i.WellFormed) (s : State) :
    (∃ r, exec i s = .next (s.respondTx r)) ∨
    ∃ data, PayloadFits data ∧ exec i s = .next (s.txAdvance (txLoad s.cfg.frameGroups data)) := by
  cases i with
  | rxReset | rxFeed => cases hp
  | txPacket data => exact .inr ⟨data, hw, rfl⟩
  | crc16 | b64Encode | b64Decode | b64DecLen => exact .inl ⟨_, rfl⟩

/-! ### A turn and a step, forwards -/

theorem rxTurn_idle {s : State} (h : s.rxUntaken = true ∨ decode .rx s.rxIn = .incomplete) : rxTurn s = .next s := by
  obtain h | h := h
  · simp [rxTurn, engineTurn, h]
  · simp [rxTurn, engineTurn, takeCommand, State.waiting, h]

theorem rxTurn_illegal {s : State} {why : Reject} {rest : Bytes} (hu : s.rxUntaken = false)
    (hd : decode .rx s.rxIn = .illegal why rest) :
    rxTurn s = .next ({ s with rxIn := rest }.respondRx Response.illegal) := by
  simp [rxTurn, engineTurn, takeCommand, State.waiting, hu, hd, State.leave, State.answerIllegal]

theorem rxTurn_command {s : State} {i : Instr} {rest : Bytes} (hu : s.rxUntaken = false)
    (hd : decode .rx s.rxIn = .command i rest) : rxTurn s = exec i { s with rxIn := rest } := by
  simp [rxTurn, engineTurn, takeCommand, State.waiting, hu, hd, State.leave]

theorem txTurn_inProgress {s : State} {w : TxWork} (hw : s.txWork = some w) : txTurn s = .next (s.txAdvance w) := by
  simp [txTurn, engineTurn, hw]

theorem txTurn_idle {s : State} (hw : s.txWork = none) (hd : decode .tx s.txIn = .incomplete) :
    txTurn s = .next s := by
  simp [txTurn, engineTurn, takeCommand, State.waiting, hw, hd]

theorem txTurn_illegal {s : State} {why : Reject} {rest : Bytes} (hw : s.txWork = none)
    (hd : decode .tx s.txIn = .illegal why rest) :
    txTurn s = .next ({ s with txIn := rest }.respondTx Response.illegal) := by
  simp [txTurn, engineTurn, takeCommand, State.waiting, hw, hd, State.leave, State.answerIllegal]

theorem txTurn_command {s : State} {i : Instr} {rest : Bytes} (hw : s.txWork = none)
    (hd : decode .tx s.txIn = .command i rest) : txTurn s = exec i { s with txIn := rest } := by
  simp [txTurn, engineTurn, takeCommand, State.waiting, hw, hd, State.leave]

/-- The TX engine's turn always has a next state: nothing changes, a response is given, or a TX_PACKET takes a step, its
first one where the command has just been taken. -/
theorem txTurn_next (s : State) :
    txTurn s = .next s ∨
    (∃ rest r, txTurn s = .next ({ s with txIn := rest }.respondTx r)) ∨
    ∃ rest w, (s.txWork = some w ∨ ∃ data, PayloadFits data ∧ w = txLoad s.cfg.frameGroups data) ∧
      txTurn s = .next ({ s with txIn := rest }.txAdvance w) := by
  obtain ⟨w, hw, ht⟩ | ⟨-, ht, -⟩ | ⟨-, why, rest, -, ht⟩ | ⟨-, i, rest, hd, ht⟩ := txTurn_cases s
  · exact .inr (.inr ⟨s.txIn, w, .inl hw, ht⟩)
  · exact .inl ht
  · exact .inr (.inl ⟨rest, _, ht⟩)
  · obtain ⟨hport, hwf⟩ := decode_command_port hd
    obtain ⟨r, he⟩ | ⟨data, hfits, he⟩ := exec_tx hport hwf { s with txIn := rest }
    · exact .inr (.inl ⟨rest, r, ht.trans he⟩)
    · exact .inr (.inr ⟨rest, _, .inr ⟨data, hfits, rfl⟩, ht.trans he⟩)

/-- A step of a state whose script goes on is its next move. -/
theorem step_script_cons {s : State} {v : Move} {rest : List Move} (h : s.script = v :: rest) :
    step s = makeMove exec v { s with script := rest } := by
  simp [step, stepWith, h]

theorem step_script_nil_rx {s : State} (h : s.script = []) (hr : s.rxReady = true) : step s = rxTurn s := by
  simp [step, stepWith, h, hr, rxTurn]

theorem step_script_nil_tx {s : State} (h : s.script = []) (hr : s.rxReady = false) : step s = txTurn s := by
  simp [step, stepWith, h, hr, txTurn]

theorem rxReady_eq_true {s : State} :
    s.rxReady = true ↔ s.rxUntaken = false ∧ decode .rx s.rxIn ≠ .incomplete := by
  rw [State.rxReady, Bool.and_eq_true, decide_eq_true_iff]
  simp [State.accepts, State.waiting]

theorem rxReady_eq_false {s : State} :
    s.rxReady = false ↔ s.rxUntaken = true ∨ decode .rx s.rxIn = .incomplete := by
  rw [← Bool.not_eq_true, rxReady_eq_true, not_and_or]
  simp

/-- Every step is a move; past the end of the script the turn of an engine (log entry 8). -/
theorem step_eq_makeMove (s : State) : ∃ v rest, step s = makeMove exec v { s with script := rest } := by
  cases hs : s.script with
  | cons v rest => exact ⟨v, rest, step_script_cons hs⟩
  | nil =>
    cases hr : s.rxReady with
    | true => exact ⟨.rxTurn, s.script, step_script_nil_rx hs hr⟩
    | false => exact ⟨.txTurn, s.script, step_script_nil_tx hs hr⟩

/-! ### What the engines keep

The fields that a turn of one engine leaves alone, as a relation that composes. -/

/-- The build parameters and the Receive Context are the same: what the invariant reads of the RX side. -/
structure ContextKept (s t : State) : Prop where
  cfg : t.cfg = s.cfg
  rawOffset : t.rawOffset = s.rawOffset
  rawBuf : t.rawBuf = s.rawBuf
  encodedLen : t.encodedLen = s.encodedLen
  encBuf : t.encBuf = s.encBuf
  declaredBodyLen : t.declaredBodyLen = s.declaredBodyLen

/-- All that no turn of the TX engine writes: the RX side, the build parameters and the script (10_state.md R20). -/
structure RxSideKept (s t : State) : Prop extends ContextKept s t where
  ev : t.ev = s.ev
  ovf : t.ovf = s.ovf
  rxIn : t.rxIn = s.rxIn
  rxUntaken : t.rxUntaken = s.rxUntaken
  rxResponses : t.rxResponses = s.rxResponses
  script : t.script = s.script

/-- All that no turn of the RX engine writes: the TX side, the sink port, the build parameters and the script. -/
structure TxSideKept (s t : State) : Prop where
  cfg : t.cfg = s.cfg
  txIn : t.txIn = s.txIn
  txWork : t.txWork = s.txWork
  txResponses : t.txResponses = s.txResponses
  sinkOffers : t.sinkOffers = s.sinkOffers
  sinkAnswers : t.sinkAnswers = s.sinkAnswers
  script : t.script = s.script

/-- The state is the old one but for the RX side. -/
theorem txSideKept_iff {s t : State} : TxSideKept s t ↔
    t = { s with
      rawOffset := t.rawOffset, rawBuf := t.rawBuf, encodedLen := t.encodedLen, encBuf := t.encBuf
      declaredBodyLen := t.declaredBodyLen, ev := t.ev, ovf := t.ovf
      rxIn := t.rxIn, rxUntaken := t.rxUntaken, rxResponses := t.rxResponses } := by
  constructor
  · intro h
    rw [← h.cfg, ← h.txIn, ← h.txWork, ← h.txResponses, ← h.sinkOffers, ← h.sinkAnswers, ← h.script]
  · intro h
    rw [h]
    exact ⟨rfl, rfl, rfl, rfl, rfl, rfl, rfl⟩

/-- The state is the old one but for the TX side and the sink port. -/
theorem rxSideKept_iff {s t : State} : RxSideKept s t ↔
    t = { s with
      txIn := t.txIn, txWork := t.txWork, txResponses := t.txResponses
      sinkOffers := t.sinkOffers, sinkAnswers := t.sinkAnswers } := by
  constructor
  · intro h
    rw [← h.cfg, ← h.rawOffset, ← h.rawBuf, ← h.encodedLen, ← h.encBuf, ← h.declaredBodyLen, ← h.ev, ← h.ovf,
      ← h.rxIn, ← h.rxUntaken, ← h.rxResponses, ← h.script]
  · intro h
    rw [h]
    exact ⟨⟨rfl, rfl, rfl, rfl, rfl, rfl⟩, rfl, rfl, rfl, rfl, rfl, rfl⟩

theorem TxSideKept.trans {s t u : State} (h : TxSideKept s t) (h' : TxSideKept t u) : TxSideKept s u :=
  ⟨h'.cfg.trans h.cfg, h'.txIn.trans h.txIn, h'.txWork.trans h.txWork, h'.txResponses.trans h.txResponses,
    h'.sinkOffers.trans h.sinkOffers, h'.sinkAnswers.trans h.sinkAnswers, h'.script.trans h.script⟩

theorem txSideKept_scratchOverflow (s : State) : TxSideKept s (scratchOverflow s) := by
  rw [scratchOverflow_frame]
  exact txSideKept_iff.mpr rfl

theorem txSideKept_scratchAppend {b : Byte} {s t : State} (h : scratchAppend b s = .ok t) : TxSideKept s t := by
  obtain ⟨-, rfl⟩ := scratchAppend_eq_ok.mp h
  exact txSideKept_iff.mpr rfl

theorem txSideKept_commitFrame {start : Bool} {base : Nat} {r : Bytes} {s t : State}
    (h : commitFrame start base r s = .ok t) : TxSideKept s t := by
  obtain ⟨-, rfl⟩ := commitFrame_eq_ok.mp h
  exact txSideKept_iff.mpr rfl

theorem txSideKept_completePacket {s t : State} (h : completePacket s = .next t) : TxSideKept s t := by
  obtain ⟨-, rfl⟩ | ⟨-, rfl⟩ | ⟨-, span, -, ⟨-, rfl⟩ | ⟨-, body, -, rfl⟩⟩ := completePacket_next h <;>
    exact txSideKept_iff.mpr rfl

/-- RX_FEED writes the RX side alone. -/
theorem txSideKept_execRxFeed {b : Byte} {s t : State} (h : execRxFeed b s = .next t) : TxSideKept s t := by
  obtain ⟨s', hs, hcase⟩ := execRxFeed_next h
  have hstored : TxSideKept s s' := (txSideKept_scratchOverflow s).trans (txSideKept_scratchAppend hs)
  refine hstored.trans ?_
  obtain ⟨-, rfl⟩ | ⟨-, line, -, ⟨e, -, rfl⟩ | ⟨start, base, r, s'', -, hc, ht⟩⟩ := hcase
  · exact txSideKept_iff.mpr rfl
  · exact txSideKept_iff.mpr rfl
  · have hemptied : TxSideKept s' { s' with encodedLen := 0 } := txSideKept_iff.mpr rfl
    exact (hemptied.trans (txSideKept_commitFrame hc)).trans (txSideKept_completePacket ht)

theorem txSideKept_rxTurn {s t : State} (h : rxTurn s = .next t) : TxSideKept s t := by
  obtain ⟨ht, -⟩ | ⟨-, why, rest, -, ht⟩ | ⟨-, i, rest, hd, ht⟩ := rxTurn_cases s <;> rw [ht] at h
  · cases h
    exact txSideKept_iff.mpr rfl
  · cases h
    exact txSideKept_iff.mpr rfl
  · obtain rfl | ⟨b, rfl⟩ := port_eq_rx (decode_command_port hd).1
    · cases h
      exact txSideKept_iff.mpr rfl
    · have htaken : TxSideKept s { s with rxIn := rest } := txSideKept_iff.mpr rfl
      exact htaken.trans (txSideKept_execRxFeed h)

theorem rxSideKept_txTurn {s t : State} (h : txTurn s = .next t) : RxSideKept s t := by
  obtain ht | ⟨rest, r, ht⟩ | ⟨rest, w, -, ht⟩ := txTurn_next s <;> rw [ht] at h <;> cases h
  · exact rxSideKept_iff.mpr rfl
  · exact rxSideKept_iff.mpr rfl
  · rw [txAdvance_frame]
    exact rxSideKept_iff.mpr rfl

/-! ### The statements -/

/-- Settles O8: each engine's turn keeps the other side, operation by operation. -/
theorem enginesShareNoState : Obligations.EnginesShareNoState :=
  ⟨fun _ _ h => txSideKept_iff.mp (txSideKept_rxTurn h),
    fun _ _ h => rxSideKept_iff.mp (rxSideKept_txTurn h)⟩

/-- Settles O52: an engine's turn keeps the build parameters, and so does every move of the environment. -/
theorem buildParametersNeverChange : Obligations.BuildParametersNeverChange := by
  intro s t h
  obtain ⟨v, rest, hv⟩ := step_eq_makeMove s
  rw [hv] at h
  cases v with
  | rxTurn => exact (txSideKept_rxTurn h).cfg
  | txTurn => exact (rxSideKept_txTurn h).cfg
  | issueRx | issueTx | takeRx | answer | powerOn =>
    cases h
    rfl

/-- Settles O5: the script, or past its end `rxReady`, gives the port's engine its turn, and the turn takes the command. -/
theorem stepRunsTheDecodedCommand : Obligations.StepRunsTheDecodedCommand := by
  refine ⟨fun s moves i rest hs hu hd => ?_, fun s moves i rest hs hw hd => ?_, fun s i rest hs hu hd => ?_,
    fun s i rest hs hr hw hd => ?_⟩
  · exact (step_script_cons hs).trans (rxTurn_command (s := { s with script := moves }) hu hd)
  · exact (step_script_cons hs).trans (txTurn_command (s := { s with script := moves }) hw hd)
  · have hready : s.rxReady = true := rxReady_eq_true.mpr ⟨hu, by simp [hd]⟩
    exact (step_script_nil_rx hs hready).trans (rxTurn_command hu hd)
  · exact (step_script_nil_tx hs (rxReady_eq_false.mpr hr)).trans (txTurn_command hw hd)

/-- Settles O11: R37's table at reset, and RX_RESET clears the Receive Context's registers (R120). -/
theorem resetHasTheStatedValues : Obligations.ResetHasTheStatedValues :=
  ⟨rfl, rfl, rfl, rfl, rfl, rfl, rfl, rfl, fun s => ⟨_, rfl, by simp⟩⟩

end Sys2Proof.Machine
end

section
/-!
PROOFS. The invariant (10_state.md R27 to R29, 20_memory.md R41): every operation of a step keeps it, and under it every
step has a next state.
-/

namespace Sys2Proof

open Machine

/-! ### RX_FEED in a state of the invariant

Under the invariant no buffer access of RX_FEED stops, so each part of it is a total function of the state. -/

/-- The state after a byte is appended to the scratch window (R124). -/
def Machine.State.storeByte (s : State) (b : Byte) : State :=
  { s with encBuf := s.encBuf.write s.encodedLen b, encodedLen := s.encodedLen + 1 }

/-- The state after a newline is appended and the window emptied (R126, R127). -/
def Machine.State.closeWindow (s : State) : State :=
  { s with encBuf := s.encBuf.write s.encodedLen newline, encodedLen := 0 }

/-- The state after an accepted frame's bytes are committed (R134 to R136). -/
def Machine.State.committed (s : State) (start : Bool) (base : Nat) (r : Bytes) : State :=
  { s with
    rawBuf := s.rawBuf.writeBytes base r
    rawOffset := base + r.length
    declaredBodyLen := declaredAfter start r s.declaredBodyLen }

/-- The state after the completion test, where `stream` is the decoded stream (R137 to R140). -/
def Machine.State.completed (s : State) (stream : Bytes) : State :=
  if s.rawOffset < s.expectedTotal then s.finishRx .more Response.okNone
  else if s.expectedTotal < s.rawOffset then s.endPacket.finishRx .overlen Response.okNone
  else if crc16 (stream.drop 2) ≠ 0#16 then s.endPacket.finishRx .crc Response.okNone
  else
    s.endPacket.finishRx .complete
      { status := .packet, payload := .data ((stream.drop 2).take (s.rawOffset - 4)) }

theorem execRxFeed_ordinary {s : State} {b : Byte} (h : Inv s) (hb : b ≠ newline) :
    execRxFeed b s = .next (((scratchOverflow s).storeByte b).finishRx .accum Response.okNone) := by
  unfold execRxFeed
  rw [scratchAppend_scratchOverflow h.admissible h.windowRange b]
  simp [hb, State.storeByte]

theorem execRxFeed_closeWindow {s : State} {line : Bytes} (h : Inv s) (hl : CurrentLine s line) :
    execRxFeed newline s = evalLine line (scratchOverflow s).closeWindow := by
  rw [execRxFeed_newline h.admissible h.windowRange hl, State.closeWindow, scratchOverflow_encBuf]

/-- The completion test reads nothing but the decoded stream. -/
theorem completePacket_of_stream {s : State} {stream : Bytes}
    (hs : s.rawBuf.readBytes 0 s.rawOffset = some stream) : completePacket s = .next (s.completed stream) := by
  unfold completePacket State.completed
  by_cases hmore : s.rawOffset < s.expectedTotal
  · simp [hmore]
  by_cases hover : s.expectedTotal < s.rawOffset
  · simp [hmore, hover]
  have hfour : 4 ≤ s.rawOffset := by
    simp only [State.expectedTotal] at hmore
    omega
  have hlen : stream.length = s.rawOffset := Memory.readBytes_length _ _ _ _ hs
  have hspan : s.rawBuf.readBytes 2 (s.rawOffset - 2) = some (stream.drop 2) := by
    have := Memory.readBytes_drop_take _ _ _ 2 (s.rawOffset - 2) _ hs (by omega)
    rwa [Nat.zero_add, List.take_of_length_le (by simp [hlen])] at this
  have hbody : s.rawBuf.readBytes 2 (s.rawOffset - 4) = some ((stream.drop 2).take (s.rawOffset - 4)) := by
    simpa using Memory.readBytes_drop_take _ _ _ 2 (s.rawOffset - 4) _ hs (by omega)
  simp only [hmore, hover, if_false, bufRead_eq_ok.mpr hspan, bufRead_eq_ok.mpr hbody]
  split_ifs <;> rfl

theorem evalLine_discard {s : State} {line : Bytes} {e : GhostEvent}
    (hv : lineVerdict s.cfg.rawCap s.rawOffset line = .discard e) :
    evalLine line s = .next (s.finishRx e Response.okNone) := by
  simp [evalLine, hv]

/-- What an accepted frame is in a state of the invariant: its bytes begin a packet or continue the one in progress, fit
`raw_buf`, and leave at least the length field there (R29). -/
structure FrameFits (s : State) (base : Nat) (r : Bytes) : Prop where
  base_eq : base = 0 ∨ base = s.rawOffset
  least : 2 ≤ base + r.length
  fits : base + r.length ≤ s.cfg.rawCap

theorem frameFits_of_accept {s : State} {line r : Bytes} {start : Bool} {base : Nat} (h : Inv s)
    (hv : lineVerdict s.cfg.rawCap s.rawOffset line = .accept start base r) : FrameFits s base r := by
  obtain ⟨_, _, _, -, -, hfits, ⟨-, -, hbase, hlen⟩ | ⟨-, -, hbase, hne⟩⟩ := lineVerdict_eq_accept hv
  · exact ⟨.inl hbase, by omega, hfits⟩
  · obtain h0 | ⟨htwo, -, -⟩ := h.rawRange
    · exact absurd h0 hne
    · exact ⟨.inr hbase, by omega, hfits⟩

/-- The bytes that an accepted frame is put after are written (R27). -/
theorem FrameFits.kept {s : State} {base : Nat} {r : Bytes} (hf : FrameFits s base r) (h : Inv s) :
    ∃ kept, s.rawBuf.readBytes 0 base = some kept := by
  obtain rfl | rfl := hf.base_eq
  · exact ⟨[], rfl⟩
  · exact Option.isSome_iff_exists.mp h.rawWritten

theorem evalLine_accept {s : State} {line r kept : Bytes} {start : Bool} {base : Nat}
    (hv : lineVerdict s.cfg.rawCap s.rawOffset line = .accept start base r) (hf : FrameFits s base r)
    (hk : s.rawBuf.readBytes 0 base = some kept) :
    evalLine line s = .next ((s.committed start base r).completed (kept ++ r)) := by
  have hc : commitFrame start base r s = .ok (s.committed start base r) := commitFrame_eq_ok.mpr ⟨hf.fits, rfl⟩
  simp only [evalLine, hv, hc]
  exact completePacket_of_stream (readBytes_commit r hk)

/-! ### The Receive Context -/

theorem Machine.ContextKept.inv {s t : State} (hk : ContextKept s t) (h : Inv s)
    (hw : ∀ w, t.txWork = some w → TxWorkOk t.cfg.frameGroups w) : Inv t where
  admissible := by rw [hk.cfg]; exact h.admissible
  rawWf := by rw [hk.rawBuf]; exact h.rawWf
  rawWithin := by rw [hk.rawBuf, hk.cfg]; exact h.rawWithin
  encWf := by rw [hk.encBuf]; exact h.encWf
  encWithin := by rw [hk.encBuf, hk.cfg]; exact h.encWithin
  rawWritten := by rw [hk.rawBuf, hk.rawOffset]; exact h.rawWritten
  windowWritten := by rw [hk.encBuf, hk.encodedLen]; exact h.windowWritten
  rawRange := by rw [hk.rawOffset, hk.cfg, hk.declaredBodyLen]; exact h.rawRange
  windowRange := by rw [hk.encodedLen, hk.cfg]; exact h.windowRange
  txWorkOk := hw

/-- The invariant does not read the ports, the responses, the ghosts or the script. -/
theorem Inv.congr {s t : State} (h : Inv s) (hk : ContextKept s t) (hw : t.txWork = s.txWork) : Inv t :=
  hk.inv h (by rw [hw, hk.cfg]; exact h.txWorkOk)

theorem Inv.rxTaken {s : State} (h : Inv s) (rest : Bytes) : Inv { s with rxIn := rest } :=
  h.congr ⟨rfl, rfl, rfl, rfl, rfl, rfl⟩ rfl

theorem Inv.scripted {s : State} (h : Inv s) (rest : List Move) : Inv { s with script := rest } :=
  h.congr ⟨rfl, rfl, rfl, rfl, rfl, rfl⟩ rfl

theorem Inv.finishRx {s : State} (h : Inv s) (e : GhostEvent) (r : Response) : Inv (s.finishRx e r) :=
  h.congr ⟨rfl, rfl, rfl, rfl, rfl, rfl⟩ rfl

theorem Inv.endPacket {s : State} (h : Inv s) : Inv s.endPacket :=
  { h with rawWritten := rfl, rawRange := .inl rfl }

theorem Inv.clearContext {s : State} (h : Inv s) : Inv s.clearContext :=
  { h with
    rawWritten := rfl
    windowWritten := ⟨[], rfl, List.not_mem_nil⟩
    rawRange := .inl rfl
    windowRange := Nat.zero_le _ }

theorem Inv.execRxReset_keeps {s : State} (h : Inv s) : ∃ t, execRxReset s = .next t ∧ Inv t := by
  have hcleared : Inv { s.clearContext with ovf := false } := h.clearContext.congr ⟨rfl, rfl, rfl, rfl, rfl, rfl⟩ rfl
  exact ⟨_, rfl, hcleared.finishRx .reset Response.okNone⟩

theorem Inv.scratchOverflow_keeps {s : State} (h : Inv s) : Inv (scratchOverflow s) := by
  by_cases hfull : s.encodedLen = s.cfg.encCap
  · rw [scratchOverflow_full hfull]
    exact { h with
      rawWritten := rfl
      windowWritten := ⟨[], rfl, List.not_mem_nil⟩
      rawRange := .inl rfl
      windowRange := Nat.zero_le _ }
  · rw [scratchOverflow_room hfull]
    exact h.congr ⟨rfl, rfl, rfl, rfl, rfl, rfl⟩ rfl

/-- After the overflow rule there is room for a byte, as every ENC_CAP is positive (R10, R123). -/
theorem Inv.window_room {s : State} (h : Inv s) :
    (scratchOverflow s).encodedLen < (scratchOverflow s).cfg.encCap := by
  rw [scratchOverflow_cfg]
  obtain ⟨-, -, hcap, -, -⟩ := h.admissible
  exact scratchOverflow_lt h.windowRange (by omega)

theorem Inv.storeByte {s : State} {b : Byte} (h : Inv s) (hroom : s.encodedLen < s.cfg.encCap) (hb : b ≠ newline) :
    Inv (s.storeByte b) := by
  obtain ⟨line, hline, hclean⟩ := h.windowWritten
  exact { h with
    encWf := Memory.write_wf _ _ b h.encWf
    encWithin := Memory.write_within _ b hroom h.encWithin
    windowWritten := ⟨line ++ [b], readBytes_append b hline, by simp [hclean, hb.symm]⟩
    windowRange := hroom }

theorem Inv.closeWindow {s : State} (h : Inv s) (hroom : s.encodedLen < s.cfg.encCap) : Inv s.closeWindow :=
  { h with
    encWf := Memory.write_wf _ _ newline h.encWf
    encWithin := Memory.write_within _ newline hroom h.encWithin
    windowWritten := ⟨[], rfl, List.not_mem_nil⟩
    windowRange := Nat.zero_le _ }

/-- The completion test drops the packet, or leaves fewer bytes than the declared total: the bound of R29. -/
theorem inv_completed {s : State} (stream : Bytes) (hdropped : Inv s.endPacket)
    (hwritten : (s.rawBuf.readBytes 0 s.rawOffset).isSome = true) (hleast : 2 ≤ s.rawOffset)
    (hfits : s.rawOffset ≤ s.cfg.rawCap) : Inv (s.completed stream) := by
  unfold State.completed
  split_ifs with hmore
  · have hrange : s.rawOffset ≤ s.declaredBodyLen.toNat + 3 := by
      simp only [State.expectedTotal] at hmore
      omega
    have hkept : Inv s := { hdropped with rawWritten := hwritten, rawRange := .inr ⟨hleast, hfits, hrange⟩ }
    exact hkept.finishRx _ _
  all_goals exact hdropped.finishRx _ _

theorem FrameFits.completed_keeps {s : State} {base : Nat} {r kept : Bytes} (hf : FrameFits s base r) (h : Inv s)
    (hk : s.rawBuf.readBytes 0 base = some kept) (start : Bool) (stream : Bytes) :
    Inv ((s.committed start base r).completed stream) := by
  have hdropped : Inv (s.committed start base r).endPacket :=
    { h with
      rawWf := Memory.writeBytes_wf r _ base h.rawWf
      rawWithin := Memory.writeBytes_within r _ base _ hf.fits h.rawWithin
      rawWritten := rfl
      rawRange := .inl rfl }
  refine inv_completed stream hdropped ?_ hf.least hf.fits
  exact Option.isSome_iff_exists.mpr ⟨kept ++ r, readBytes_commit r hk⟩

theorem Inv.evalLine_keeps {s : State} (h : Inv s) (line : Bytes) : ∃ t, evalLine line s = .next t ∧ Inv t := by
  cases hv : lineVerdict s.cfg.rawCap s.rawOffset line with
  | discard e => exact ⟨_, evalLine_discard hv, h.finishRx _ _⟩
  | accept start base r =>
    have hf := frameFits_of_accept h hv
    obtain ⟨kept, hk⟩ := hf.kept h
    exact ⟨_, evalLine_accept hv hf hk, hf.completed_keeps h hk start _⟩

theorem Inv.currentLine {s : State} (h : Inv s) : ∃ line, CurrentLine s line := by
  obtain ⟨line, hline, -⟩ := h.scratchOverflow_keeps.windowWritten
  exact ⟨line, hline⟩

theorem Inv.execRxFeed_keeps {s : State} (h : Inv s) (b : Byte) : ∃ t, execRxFeed b s = .next t ∧ Inv t := by
  by_cases hb : b = newline
  · obtain ⟨line, hl⟩ := h.currentLine
    rw [hb, execRxFeed_closeWindow h hl]
    exact (h.scratchOverflow_keeps.closeWindow h.window_room).evalLine_keeps line
  · exact ⟨_, execRxFeed_ordinary h hb, (h.scratchOverflow_keeps.storeByte h.window_room hb).finishRx _ _⟩

theorem Inv.rxTurn_keeps {s : State} (h : Inv s) : ∃ t, rxTurn s = .next t ∧ Inv t := by
  obtain ⟨ht, -⟩ | ⟨-, why, rest, -, ht⟩ | ⟨-, i, rest, hd, ht⟩ := rxTurn_cases s
  · exact ⟨s, ht, h⟩
  · exact ⟨_, ht, h.congr ⟨rfl, rfl, rfl, rfl, rfl, rfl⟩ rfl⟩
  · rw [ht]
    obtain rfl | ⟨b, rfl⟩ := port_eq_rx (decode_command_port hd).1
    · exact (h.rxTaken rest).execRxReset_keeps
    · exact (h.rxTaken rest).execRxFeed_keeps b

/-! ### The TX working set -/

theorem txWorkOk_txLoad (k : Nat) {data : Bytes} (hfits : PayloadFits data) : TxWorkOk k (txLoad k data) :=
  ⟨⟨data, hfits, rfl⟩, Nat.zero_le _, fun h => absurd rfl h⟩

/-- A change of place or phase that stays within the packet keeps the working set that of the packet. -/
theorem TxWorkOk.move {k : Nat} {w : TxWork} (h : TxWorkOk k w) {next : Nat} {phase : TxPhase}
    (hnext : next ≤ w.frames.length) (hphase : phase ≠ .offering → next < w.frames.length) :
    TxWorkOk k { w with next := next, phase := phase } := by
  obtain ⟨⟨data, hfits, hw⟩, -, -⟩ := h
  exact ⟨⟨data, hfits, by rw [hw]⟩, hnext, hphase⟩

/-- The working set after the sink was asked for the answer to a frame: none has come, or one has (R174, R219). -/
theorem receiveAnswer_txWork {s : State} {w w' : TxWork} (h : (s.receiveAnswer w).txWork = some w') :
    w' = { w with phase := .waiting } ∨ ∃ a, w' = w.answered a := by
  cases hs : s.sinkAnswers with
  | nil =>
    rw [receiveAnswer_none hs] at h
    exact .inl (Option.some.inj h).symm
  | cons a rest =>
    rw [receiveAnswer_some hs] at h
    exact .inr ⟨a, (Option.some.inj h).symm⟩

theorem TxWorkOk.receiveAnswer_keeps {k : Nat} {s : State} {w w' : TxWork} (h : TxWorkOk k w)
    (hnext : w.next < w.frames.length) (hw : (s.receiveAnswer w).txWork = some w') : TxWorkOk k w' := by
  obtain rfl | ⟨_ | e, rfl⟩ := receiveAnswer_txWork hw
  · exact TxWorkOk.move h hnext.le fun _ => hnext
  · exact TxWorkOk.move h hnext fun hp => absurd rfl hp
  · exact TxWorkOk.move h hnext.le fun _ => hnext

/-- A frame that is offered and not yet answered is one of the packet's. -/
theorem TxWorkOk.next_lt {k : Nat} {w : TxWork} (h : TxWorkOk k w) (hp : w.phase = .waiting) :
    w.next < w.frames.length := by
  obtain ⟨-, -, hnext⟩ := h
  exact hnext (by simp [hp])

theorem TxWorkOk.txAdvance_keeps {k : Nat} {s : State} {w w' : TxWork} (h : TxWorkOk k w)
    (hw : (s.txAdvance w).txWork = some w') : TxWorkOk k w' := by
  obtain ⟨e, -, ht⟩ | ⟨hp, ht⟩ | ⟨-, -, ht⟩ | ⟨-, gs, hgs, ht⟩ := txAdvance_cases s w <;> rw [ht] at hw
  · cases hw
  · exact h.receiveAnswer_keeps (h.next_lt hp) hw
  · cases hw
  · exact h.receiveAnswer_keeps (List.getElem?_eq_some_iff.mp hgs).1 hw

theorem Inv.txTurn_keeps {s : State} (h : Inv s) : ∃ t, txTurn s = .next t ∧ Inv t := by
  obtain ht | ⟨rest, r, ht⟩ | ⟨rest, w, hw, ht⟩ := txTurn_next s
  · exact ⟨s, ht, h⟩
  · exact ⟨_, ht, h.congr ⟨rfl, rfl, rfl, rfl, rfl, rfl⟩ rfl⟩
  · have hkept := rxSideKept_txTurn ht
    have hok : TxWorkOk s.cfg.frameGroups w := by
      obtain hw | ⟨data, hfits, rfl⟩ := hw
      · exact h.txWorkOk w hw
      · exact txWorkOk_txLoad _ hfits
    refine ⟨_, ht, hkept.toContextKept.inv h fun w' hw' => ?_⟩
    rw [hkept.cfg]
    exact hok.txAdvance_keeps hw'

/-! ### A step -/

/-- Power-on reset meets the invariant for every admissible build (R37, R210). -/
theorem inv_powerOn {s : State} (h : s.cfg.Admissible) : Inv s.powerOn where
  admissible := h
  rawWf := rfl
  rawWithin := rfl
  encWf := rfl
  encWithin := rfl
  rawWritten := rfl
  windowWritten := ⟨[], rfl, List.not_mem_nil⟩
  rawRange := .inl rfl
  windowRange := Nat.zero_le _
  txWorkOk := fun _ hw => nomatch hw

theorem Inv.makeMove_keeps {s : State} (h : Inv s) (v : Move) : ∃ t, makeMove exec v s = .next t ∧ Inv t := by
  cases v with
  | rxTurn => exact h.rxTurn_keeps
  | txTurn => exact h.txTurn_keeps
  | powerOn => exact ⟨_, rfl, inv_powerOn h.admissible⟩
  | issueRx | issueTx | takeRx | answer => exact ⟨_, rfl, h.congr ⟨rfl, rfl, rfl, rfl, rfl, rfl⟩ rfl⟩

/-- In a state of the invariant a step has a next state, and it is again one of the invariant. -/
theorem Inv.step_keeps {s : State} (h : Inv s) : ∃ t, step s = .next t ∧ Inv t := by
  obtain ⟨v, rest, hv⟩ := step_eq_makeMove s
  rw [hv]
  exact (h.scripted rest).makeMove_keeps v

/-- Settles O50, by `Inv.step_keeps`: each engine's turn and each move of the environment keeps the invariant. -/
theorem everyStepKeepsTheInvariant : Obligations.EveryStepKeepsTheInvariant := by
  intro s t h ht
  obtain ⟨u, hu, hinv⟩ := h.step_keeps
  rw [hu] at ht
  cases ht
  exact hinv

/-- Settles O49: reset is power-on reset of the reference build, whose parameters are admissible. -/
theorem resetMeetsTheInvariant : Obligations.ResetMeetsTheInvariant :=
  inv_powerOn (s := State.reset) (by decide)

end Sys2Proof
end

section
/-!
PROOFS. Non-interference of the buffer bytes at and above the offsets (10_state.md R27, R28): a state and the same state
with other buffers that read alike below the offsets take alike steps.
-/

namespace Sys2Proof

open Machine

/-- `s` with other buffer contents. -/
def Machine.State.withBuffers (s : State) (raw enc : Memory) : State := { s with rawBuf := raw, encBuf := enc }

/-- Buffer contents that read as those of `s` below its offsets. -/
structure ReadsAlike (s : State) (raw enc : Memory) : Prop where
  raw : raw.readBytes 0 s.rawOffset = s.rawBuf.readBytes 0 s.rawOffset
  enc : enc.readBytes 0 s.encodedLen = s.encBuf.readBytes 0 s.encodedLen

theorem sameObservable_iff {s s' : State} :
    SameObservable s s' ↔ ∃ raw enc, s' = s.withBuffers raw enc ∧ ReadsAlike s raw enc := by
  constructor
  · rintro ⟨hs, hraw, henc⟩
    have hoffsets : s'.rawOffset = s.rawOffset ∧ s'.encodedLen = s.encodedLen := by
      rw [hs]
      exact ⟨rfl, rfl⟩
    rw [hoffsets.1] at hraw
    rw [hoffsets.2] at henc
    exact ⟨s'.rawBuf, s'.encBuf, hs, hraw.symm, henc.symm⟩
  · rintro ⟨raw, enc, rfl, ha⟩
    exact ⟨rfl, ha.raw.symm, ha.enc.symm⟩

/-- Where the one step has a next state, the other has one that differs from it in unread buffer bytes alone. -/
def NextAlike (r r' : Result) : Prop := ∀ t, r = .next t → ∃ t', r' = .next t' ∧ SameObservable t t'

theorem nextAlike_next {t t' : State} (h : SameObservable t t') : NextAlike (.next t) (.next t') := by
  intro u hu
  cases hu
  exact ⟨t', rfl, h⟩

/-- An operation that keeps both buffers, and each offset or sets it to 0, keeps what is read alike. -/
theorem ReadsAlike.sameObservable {s t : State} {raw enc : Memory} (ha : ReadsAlike s raw enc)
    (hraw : t.rawBuf = s.rawBuf) (henc : t.encBuf = s.encBuf) (hoff : t.rawOffset = s.rawOffset ∨ t.rawOffset = 0)
    (hlen : t.encodedLen = s.encodedLen ∨ t.encodedLen = 0) : SameObservable t (t.withBuffers raw enc) := by
  refine sameObservable_iff.mpr ⟨raw, enc, rfl, ?_, ?_⟩
  · obtain h | h := hoff <;> rw [h, hraw]
    · exact ha.raw
    · rfl
  · obtain h | h := hlen <;> rw [h, henc]
    · exact ha.enc
    · rfl

theorem ReadsAlike.of_contextKept {s t : State} {raw enc : Memory} (ha : ReadsAlike s raw enc) (hk : ContextKept s t) :
    SameObservable t (t.withBuffers raw enc) :=
  ha.sameObservable hk.rawBuf hk.encBuf (.inl hk.rawOffset) (.inl hk.encodedLen)

/-! ### The RX engine -/

theorem scratchOverflow_withBuffers (s : State) (raw enc : Memory) :
    scratchOverflow (s.withBuffers raw enc) = (scratchOverflow s).withBuffers raw enc := by
  by_cases h : s.encodedLen = s.cfg.encCap
  · rw [scratchOverflow_full h, scratchOverflow_full (s := s.withBuffers raw enc) h]
    rfl
  · rw [scratchOverflow_room h, scratchOverflow_room (s := s.withBuffers raw enc) h]
    rfl

theorem ReadsAlike.scratchOverflow {s : State} {raw enc : Memory} (ha : ReadsAlike s raw enc) :
    ReadsAlike (scratchOverflow s) raw enc := by
  by_cases h : s.encodedLen = s.cfg.encCap
  · rw [scratchOverflow_full h]
    exact ⟨rfl, rfl⟩
  · rw [scratchOverflow_room h]
    exact ⟨ha.raw, ha.enc⟩

/-- The completion test's outcome depends on the decoded stream, not on the buffers. -/
theorem completed_withBuffers (s : State) (raw enc : Memory) (stream : Bytes) :
    (s.withBuffers raw enc).completed stream = (s.completed stream).withBuffers raw enc := by
  unfold State.completed
  rw [apply_ite (State.withBuffers · raw enc), apply_ite (State.withBuffers · raw enc),
    apply_ite (State.withBuffers · raw enc)]
  rfl

theorem ReadsAlike.completed {s : State} {raw enc : Memory} (ha : ReadsAlike s raw enc) (stream : Bytes) :
    SameObservable (s.completed stream) ((s.withBuffers raw enc).completed stream) := by
  rw [completed_withBuffers]
  refine ha.sameObservable ?_ ?_ ?_ ?_ <;> unfold State.completed <;> split_ifs <;> simp

theorem nextAlike_evalLine {s : State} {raw enc : Memory} (h : Inv s) (ha : ReadsAlike s raw enc) (line : Bytes) :
    NextAlike (evalLine line s) (evalLine line (s.withBuffers raw enc)) := by
  cases hv : lineVerdict s.cfg.rawCap s.rawOffset line with
  | discard e =>
    rw [evalLine_discard hv, evalLine_discard (s := s.withBuffers raw enc) hv]
    exact nextAlike_next (ha.of_contextKept (t := s.finishRx e Response.okNone) ⟨rfl, rfl, rfl, rfl, rfl, rfl⟩)
  | accept start base r =>
    have hf := frameFits_of_accept h hv
    obtain ⟨kept, hk⟩ := hf.kept h
    have hk' : raw.readBytes 0 base = some kept := by
      obtain rfl | rfl := hf.base_eq
      · exact hk
      · exact ha.raw.trans hk
    rw [evalLine_accept hv hf hk,
      evalLine_accept (s := s.withBuffers raw enc) hv ⟨hf.base_eq, hf.least, hf.fits⟩ hk']
    have hcommitted : ReadsAlike (s.committed start base r) (raw.writeBytes base r) enc :=
      ⟨(readBytes_commit r hk').trans (readBytes_commit r hk).symm, ha.enc⟩
    exact nextAlike_next (hcommitted.completed (kept ++ r))

/-- A byte stored at the end of the window reads alike, as the bytes before it do. -/
theorem ReadsAlike.storeByte {s : State} {raw enc : Memory} (ha : ReadsAlike s raw enc) (h : Inv s) (b : Byte) :
    ReadsAlike (s.storeByte b) raw (enc.write s.encodedLen b) := by
  obtain ⟨line, hline, -⟩ := h.windowWritten
  exact ⟨ha.raw, (readBytes_append b (ha.enc.trans hline)).trans (readBytes_append b hline).symm⟩

theorem nextAlike_execRxFeed {s : State} {raw enc : Memory} (h : Inv s) (h' : Inv (s.withBuffers raw enc))
    (ha : ReadsAlike s raw enc) (b : Byte) : NextAlike (execRxFeed b s) (execRxFeed b (s.withBuffers raw enc)) := by
  have hover := ha.scratchOverflow
  by_cases hb : b = newline
  · obtain ⟨line, hl⟩ := h.currentLine
    have hl' : CurrentLine (s.withBuffers raw enc) line := by
      rw [CurrentLine, scratchOverflow_withBuffers]
      exact hover.enc.trans hl
    rw [hb, execRxFeed_closeWindow h hl, execRxFeed_closeWindow h' hl', scratchOverflow_withBuffers]
    have hclosed : ReadsAlike (scratchOverflow s).closeWindow raw (enc.write (scratchOverflow s).encodedLen newline) :=
      ⟨hover.raw, rfl⟩
    exact nextAlike_evalLine (h.scratchOverflow_keeps.closeWindow h.window_room) hclosed line
  · rw [execRxFeed_ordinary h hb, execRxFeed_ordinary h' hb, scratchOverflow_withBuffers]
    have hstored := hover.storeByte h.scratchOverflow_keeps b
    exact nextAlike_next (hstored.of_contextKept ⟨rfl, rfl, rfl, rfl, rfl, rfl⟩)

theorem nextAlike_rxTurn {s : State} {raw enc : Memory} (h : Inv s) (h' : Inv (s.withBuffers raw enc))
    (ha : ReadsAlike s raw enc) : NextAlike (rxTurn s) (rxTurn (s.withBuffers raw enc)) := by
  obtain ⟨ht, hidle⟩ | ⟨hu, why, rest, hd, ht⟩ | ⟨hu, i, rest, hd, ht⟩ := rxTurn_cases s <;> rw [ht]
  · rw [rxTurn_idle (s := s.withBuffers raw enc) hidle]
    exact nextAlike_next (ha.of_contextKept ⟨rfl, rfl, rfl, rfl, rfl, rfl⟩)
  · rw [rxTurn_illegal (s := s.withBuffers raw enc) hu hd]
    exact nextAlike_next (ha.of_contextKept (t := { s with rxIn := rest }.respondRx Response.illegal)
      ⟨rfl, rfl, rfl, rfl, rfl, rfl⟩)
  · rw [rxTurn_command (s := s.withBuffers raw enc) hu hd]
    obtain rfl | ⟨b, rfl⟩ := port_eq_rx (decode_command_port hd).1
    · exact nextAlike_next (sameObservable_iff.mpr ⟨raw, enc, rfl, rfl, rfl⟩)
    · exact nextAlike_execRxFeed (h.rxTaken rest) (h'.rxTaken rest) ⟨ha.raw, ha.enc⟩ b

/-! ### The TX engine: it reads neither buffer -/

theorem receiveAnswer_withBuffers (s : State) (w : TxWork) (raw enc : Memory) :
    (s.withBuffers raw enc).receiveAnswer w = (s.receiveAnswer w).withBuffers raw enc := by
  cases hs : s.sinkAnswers with
  | nil =>
    rw [receiveAnswer_none hs, receiveAnswer_none (s := s.withBuffers raw enc) hs]
    rfl
  | cons a rest =>
    rw [receiveAnswer_some hs, receiveAnswer_some (s := s.withBuffers raw enc) hs]
    rfl

theorem txAdvance_withBuffers (s : State) (w : TxWork) (raw enc : Memory) :
    (s.withBuffers raw enc).txAdvance w = (s.txAdvance w).withBuffers raw enc := by
  unfold State.txAdvance
  cases w.phase with
  | failed e => rfl
  | waiting => exact receiveAnswer_withBuffers s w raw enc
  | offering =>
    cases w.frame with
    | none => rfl
    | some f => exact receiveAnswer_withBuffers { s with sinkOffers := s.sinkOffers ++ [f] } w raw enc

theorem exec_tx_withBuffers {i : Instr} (hp : i.port = .tx) {s t : State} (h : exec i s = .next t) (raw enc : Memory) :
    exec i (s.withBuffers raw enc) = .next (t.withBuffers raw enc) := by
  cases i with
  | rxReset | rxFeed => cases hp
  | txPacket data =>
    cases h
    exact congrArg _ (txAdvance_withBuffers s _ raw enc)
  | crc16 | b64Encode | b64Decode | b64DecLen =>
    cases h
    rfl

theorem txTurn_withBuffers {s t : State} (h : txTurn s = .next t) (raw enc : Memory) :
    txTurn (s.withBuffers raw enc) = .next (t.withBuffers raw enc) := by
  obtain ⟨w, hw, ht⟩ | ⟨hw, ht, hd⟩ | ⟨hw, why, rest, hd, ht⟩ | ⟨hw, i, rest, hd, ht⟩ := txTurn_cases s <;>
    rw [ht] at h
  · cases h
    rw [txTurn_inProgress (s := s.withBuffers raw enc) hw, txAdvance_withBuffers]
  · cases h
    exact txTurn_idle (s := s.withBuffers raw enc) hw hd
  · cases h
    exact txTurn_illegal (s := s.withBuffers raw enc) hw hd
  · rw [txTurn_command (s := s.withBuffers raw enc) hw hd]
    exact exec_tx_withBuffers (decode_command_port hd).1 h raw enc

theorem nextAlike_txTurn {s : State} {raw enc : Memory} (ha : ReadsAlike s raw enc) :
    NextAlike (txTurn s) (txTurn (s.withBuffers raw enc)) := fun t ht =>
  ⟨t.withBuffers raw enc, txTurn_withBuffers ht raw enc, ha.of_contextKept (rxSideKept_txTurn ht).toContextKept⟩

/-! ### A step -/

theorem nextAlike_makeMove {s : State} {raw enc : Memory} (h : Inv s) (h' : Inv (s.withBuffers raw enc))
    (ha : ReadsAlike s raw enc) (v : Move) :
    NextAlike (makeMove exec v s) (makeMove exec v (s.withBuffers raw enc)) := by
  cases v with
  | rxTurn => exact nextAlike_rxTurn h h' ha
  | txTurn => exact nextAlike_txTurn ha
  | powerOn => exact nextAlike_next (sameObservable_iff.mpr ⟨[], [], rfl, rfl, rfl⟩)
  | issueRx | issueTx | takeRx | answer =>
    exact nextAlike_next (sameObservable_iff.mpr ⟨raw, enc, rfl, ha.raw, ha.enc⟩)

theorem nextAlike_step {s : State} {raw enc : Memory} (h : Inv s) (h' : Inv (s.withBuffers raw enc))
    (ha : ReadsAlike s raw enc) : NextAlike (step s) (step (s.withBuffers raw enc)) := by
  cases hs : s.script with
  | cons v rest =>
    rw [step_script_cons hs, step_script_cons (s := s.withBuffers raw enc) hs]
    exact nextAlike_makeMove (h.scripted rest) (h'.scripted rest) ⟨ha.raw, ha.enc⟩ v
  | nil =>
    cases hr : s.rxReady with
    | true =>
      rw [step_script_nil_rx hs hr, step_script_nil_rx (s := s.withBuffers raw enc) hs hr]
      exact nextAlike_rxTurn h h' ha
    | false =>
      rw [step_script_nil_tx hs hr, step_script_nil_tx (s := s.withBuffers raw enc) hs hr]
      exact nextAlike_txTurn ha

/-- Settles O25: the second state is the first with other buffers, and every step of the two goes alike. -/
theorem unobservableBytesDoNotMatter : Obligations.UnobservableBytesDoNotMatter := by
  intro s s' t h h' hsame ht
  obtain ⟨raw, enc, rfl, ha⟩ := sameObservable_iff.mp hsame
  exact nextAlike_step h h' ha t ht

end Sys2Proof
end

section
/-!
PROOFS. The two engines' turns commute (20_memory.md R48): a state is the RX side of one state joined to the TX side of
another, and a turn of either engine works on its own side of such a join as it works on the state that side comes from.
-/

namespace Sys2Proof.Machine

/-- `s` with the TX side and the sink port of `v`. -/
def State.withTxSide (s v : State) : State :=
  { s with
    txIn := v.txIn, txWork := v.txWork, txResponses := v.txResponses
    sinkOffers := v.sinkOffers, sinkAnswers := v.sinkAnswers }

/-- A state that keeps the TX side of `s` is itself with the TX side of `s`. -/
theorem TxSideKept.withTxSide_eq {s t : State} (h : TxSideKept s t) : t.withTxSide s = t := by
  rw [State.withTxSide, ← h.txIn, ← h.txWork, ← h.txResponses, ← h.sinkOffers, ← h.sinkAnswers]

/-- A state that keeps the RX side of `s` is `s` with its own TX side. -/
theorem RxSideKept.withTxSide_eq {s v : State} (h : RxSideKept s v) : s.withTxSide v = v :=
  (rxSideKept_iff.mp h).symm

/-! ### The RX engine, whatever the TX side is -/

theorem scratchOverflow_withTxSide (s v : State) :
    scratchOverflow (s.withTxSide v) = (scratchOverflow s).withTxSide v := by
  by_cases h : s.encodedLen = s.cfg.encCap
  · rw [scratchOverflow_full h, scratchOverflow_full (s := s.withTxSide v) h]
    rfl
  · rw [scratchOverflow_room h, scratchOverflow_room (s := s.withTxSide v) h]
    rfl

theorem scratchAppend_withTxSide {b : Byte} {s t : State} (h : scratchAppend b s = .ok t) (v : State) :
    scratchAppend b (s.withTxSide v) = .ok (t.withTxSide v) := by
  obtain ⟨hroom, rfl⟩ := scratchAppend_eq_ok.mp h
  exact scratchAppend_eq_ok.mpr ⟨hroom, rfl⟩

theorem commitFrame_withTxSide {start : Bool} {base : Nat} {r : Bytes} {s t : State}
    (h : commitFrame start base r s = .ok t) (v : State) :
    commitFrame start base r (s.withTxSide v) = .ok (t.withTxSide v) := by
  obtain ⟨hfits, rfl⟩ := commitFrame_eq_ok.mp h
  exact commitFrame_eq_ok.mpr ⟨hfits, rfl⟩

theorem completePacket_withTxSide {s t : State} (h : completePacket s = .next t) (v : State) :
    completePacket (s.withTxSide v) = .next (t.withTxSide v) := by
  have hoffset : (s.withTxSide v).rawOffset = s.rawOffset := rfl
  have htotal : (s.withTxSide v).expectedTotal = s.expectedTotal := rfl
  have hbuf : (s.withTxSide v).rawBuf = s.rawBuf := rfl
  unfold completePacket
  rw [hoffset, htotal, hbuf]
  obtain ⟨hmore, rfl⟩ | ⟨hover, rfl⟩ | ⟨htot, span, hspan, ⟨hcrc, rfl⟩ | ⟨hcrc, body, hbody, rfl⟩⟩ :=
    completePacket_next h
  · rw [if_pos hmore]
    rfl
  · rw [if_neg hover.not_gt, if_pos hover]
    rfl
  · rw [if_neg htot.not_lt, if_neg htot.not_gt, bufRead_eq_ok.mpr hspan]
    exact if_pos hcrc
  · rw [if_neg htot.not_lt, if_neg htot.not_gt, bufRead_eq_ok.mpr hspan, bufRead_eq_ok.mpr hbody]
    exact if_neg (not_not.mpr hcrc)

theorem evalLine_accepted {s s' : State} {line r : Bytes} {start : Bool} {base : Nat}
    (hv : lineVerdict s.cfg.rawCap s.rawOffset line = .accept start base r)
    (hc : commitFrame start base r s = .ok s') : evalLine line s = completePacket s' := by
  simp [evalLine, hv, hc]

theorem execRxFeed_stored {b : Byte} {s s' : State} (hs : scratchAppend b (scratchOverflow s) = .ok s')
    (hb : b ≠ newline) : execRxFeed b s = .next (s'.finishRx .accum Response.okNone) := by
  simp [execRxFeed, hs, hb]

theorem execRxFeed_ended {s s' : State} {line : Bytes} (hs : scratchAppend newline (scratchOverflow s) = .ok s')
    (hl : s'.encBuf.readBytes 0 (s'.encodedLen - 1) = some line) :
    execRxFeed newline s = evalLine line { s' with encodedLen := 0 } := by
  simp [execRxFeed, hs, endLine, bufRead_eq_ok.mpr hl]

theorem execRxFeed_withTxSide {b : Byte} {s t : State} (h : execRxFeed b s = .next t) (v : State) :
    execRxFeed b (s.withTxSide v) = .next (t.withTxSide v) := by
  obtain ⟨s', hs, hcase⟩ := execRxFeed_next h
  have hstored : scratchAppend b (scratchOverflow (s.withTxSide v)) = .ok (s'.withTxSide v) := by
    rw [scratchOverflow_withTxSide]
    exact scratchAppend_withTxSide hs v
  obtain ⟨hb, rfl⟩ | ⟨rfl, line, hl, hline⟩ := hcase
  · exact execRxFeed_stored hstored hb
  · rw [execRxFeed_ended hstored hl]
    obtain ⟨e, hv, rfl⟩ | ⟨start, base, r, s'', hv, hc, ht⟩ := hline
    · exact evalLine_discard (s := { s'.withTxSide v with encodedLen := 0 }) hv
    · rw [evalLine_accepted (s := { s'.withTxSide v with encodedLen := 0 }) hv (commitFrame_withTxSide hc v)]
      exact completePacket_withTxSide ht v

/-- The RX engine's turn reads nothing of the TX side and carries it along. -/
theorem rxTurn_withTxSide {s t : State} (h : rxTurn s = .next t) (v : State) :
    rxTurn (s.withTxSide v) = .next (t.withTxSide v) := by
  obtain ⟨ht, hidle⟩ | ⟨hu, why, rest, hd, ht⟩ | ⟨hu, i, rest, hd, ht⟩ := rxTurn_cases s <;> rw [ht] at h
  · cases h
    exact rxTurn_idle (s := s.withTxSide v) hidle
  · cases h
    exact rxTurn_illegal (s := s.withTxSide v) hu hd
  · rw [rxTurn_command (s := s.withTxSide v) hu hd]
    obtain rfl | ⟨b, rfl⟩ := port_eq_rx (decode_command_port hd).1
    · cases h
      rfl
    · exact execRxFeed_withTxSide h v

/-! ### The TX engine, whatever the RX side is -/

theorem receiveAnswer_withTxSide (t s : State) (w : TxWork) :
    (t.withTxSide s).receiveAnswer w = t.withTxSide (s.receiveAnswer w) := by
  cases hs : s.sinkAnswers with
  | nil =>
    rw [receiveAnswer_none hs, receiveAnswer_none (s := t.withTxSide s) hs]
    rfl
  | cons a rest =>
    rw [receiveAnswer_some hs, receiveAnswer_some (s := t.withTxSide s) hs]
    rfl

theorem txAdvance_withTxSide (t s : State) (w : TxWork) :
    (t.withTxSide s).txAdvance w = t.withTxSide (s.txAdvance w) := by
  unfold State.txAdvance
  cases w.phase with
  | failed e => rfl
  | waiting => exact receiveAnswer_withTxSide t s w
  | offering =>
    cases w.frame with
    | none => rfl
    | some f => exact receiveAnswer_withTxSide t { s with sinkOffers := s.sinkOffers ++ [f] } w

/-- Of what the TX side is joined to, a TX command reads FRAME_GROUPS alone (R161). -/
theorem exec_tx_withTxSide {i : Instr} (hp : i.port = .tx) {t s v : State} (hcfg : t.cfg = s.cfg)
    (h : exec i s = .next v) : exec i (t.withTxSide s) = .next (t.withTxSide v) := by
  cases i with
  | rxReset | rxFeed => cases hp
  | txPacket data =>
    cases h
    rw [← hcfg]
    exact congrArg _ (txAdvance_withTxSide t s _)
  | crc16 | b64Encode | b64Decode | b64DecLen =>
    cases h
    rfl

/-- The TX engine's turn reads nothing of the RX side but the build parameters, and carries it along. -/
theorem txTurn_withTxSide {t s v : State} (hcfg : t.cfg = s.cfg) (h : txTurn s = .next v) :
    txTurn (t.withTxSide s) = .next (t.withTxSide v) := by
  obtain ⟨w, hw, ht⟩ | ⟨hw, ht, hd⟩ | ⟨hw, why, rest, hd, ht⟩ | ⟨hw, i, rest, hd, ht⟩ := txTurn_cases s <;>
    rw [ht] at h
  · cases h
    rw [txTurn_inProgress (s := t.withTxSide s) hw, txAdvance_withTxSide]
  · cases h
    exact txTurn_idle (s := t.withTxSide s) hw hd
  · cases h
    exact txTurn_illegal (s := t.withTxSide s) hw hd
  · rw [txTurn_command (s := t.withTxSide s) hw hd]
    exact exec_tx_withTxSide (s := { s with txIn := rest }) (decode_command_port hd).1 hcfg h

/-! ### The two turns -/

theorem exists_txTurn_eq_next (s : State) : ∃ v, txTurn s = .next v := by
  obtain ht | ⟨rest, r, ht⟩ | ⟨rest, w, -, ht⟩ := txTurn_next s <;> exact ⟨_, ht⟩

/-- From a state where both engines have a turn, either order joins the two turns' own sides. -/
theorem turns_join {s t v : State} (hrx : rxTurn s = .next t) (htx : txTurn s = .next v) :
    txTurn t = .next (t.withTxSide v) ∧ rxTurn v = .next (t.withTxSide v) := by
  have hkept := txSideKept_rxTurn hrx
  constructor
  · rw [← txTurn_withTxSide hkept.cfg htx, hkept.withTxSide_eq]
  · rw [← rxTurn_withTxSide hrx v, (rxSideKept_txTurn htx).withTxSide_eq]

/-- What the TX engine does first gives the RX engine no turn that it did not have. -/
theorem exists_rxTurn_of_txTurn {s v u : State} (htx : txTurn s = .next v) (hrx : rxTurn v = .next u) :
    ∃ t, rxTurn s = .next t := by
  have hback : v.withTxSide s = s := by
    conv_lhs => rw [← (rxSideKept_txTurn htx).withTxSide_eq]
    rfl
  exact ⟨_, hback ▸ rxTurn_withTxSide hrx s⟩

/-- Settles O9: in either order both engines have their turns from the first state, and `turns_join` gives the state that
both orders lead to. -/
theorem engineTurnsCommute : Obligations.EngineTurnsCommute := by
  intro s u
  constructor
  · rintro ⟨t, hrx, hu⟩
    obtain ⟨v, htx⟩ := exists_txTurn_eq_next s
    obtain ⟨hrxFirst, htxFirst⟩ := turns_join hrx htx
    exact ⟨v, htx, htxFirst.trans (hrxFirst.symm.trans hu)⟩
  · rintro ⟨v, htx, hu⟩
    obtain ⟨t, hrx⟩ := exists_rxTurn_of_txTurn htx hu
    obtain ⟨hrxFirst, htxFirst⟩ := turns_join hrx htx
    exact ⟨t, hrx, hrxFirst.trans (htxFirst.symm.trans hu)⟩

end Sys2Proof.Machine
end

section
/-!
PROOFS. Encoding and decoding (30_encoding.md R65 to R76): what the decoder reads from a command word, from the operands
and from a port's bytes, each said once as an equivalence. The statements are read off from these.
-/

namespace Sys2Proof

open Machine

/-! ### The opcode map (R69, R72, R75) -/

/-- The word of RX_FEED has the received byte in `IMM8` (R70). -/
theorem word_rxFeed (b : Byte) : (Head.rxFeed b).word = be16 0x02#8 b := by
  have hb := b.isLt
  have hdisjoint : 0x200 ||| b.toNat = 0x200 + b.toNat :=
    (Nat.two_pow_add_eq_or_of_lt (i := 9) (show b.toNat < 2 ^ 9 by omega) 1).symm
  apply BitVec.eq_of_toNat_eq
  rw [be16_toNat, Head.word, BitVec.toNat_or, BitVec.toNat_setWidth, Nat.mod_eq_of_lt (by omega)]
  exact hdisjoint

/-- A command's own word names it (R75). -/
theorem decodeWord_word (h : Head) : decodeWord h.word = .ok h := by
  cases h with
  | rxFeed b =>
    rw [word_rxFeed]
    simp [decodeWord]
  | b64Encode pad => cases pad <;> decide
  | _ => decide

/-- With its seven reserved bits 0, the `IMM8` of B64_ENCODE is its PAD bit (R71). -/
theorem imm_eq_of_reserved_zero {imm : Byte} (h : imm.extractLsb' 1 7 = 0#7) :
    imm = if imm.getLsbD 0 then 0x01#8 else 0x00#8 := by
  have hreserved : imm.toNat / 2 % 128 = 0 := by
    simpa [BitVec.extractLsb'_toNat, Nat.shiftRight_eq_div_pow] using congrArg BitVec.toNat h
  have hpad : imm.getLsbD 0 = decide (imm.toNat % 2 = 1) := Nat.testBit_zero _
  have := imm.isLt
  apply BitVec.eq_of_toNat_eq
  rw [hpad]
  split_ifs with hbit <;> simp only [decide_eq_true_eq] at hbit <;> simp only [BitVec.toNat_ofNat] <;> omega

/-- A command whose `IMM8` must be 0 is named by the one word that has it 0 (R72). -/
theorem word_of_plainHead {op imm : Byte} {h h' : Head} (hd : plainHead op imm h = .ok h')
    (hword : be16 op 0x00#8 = h.word) : be16 op imm = h'.word := by
  unfold plainHead at hd
  split_ifs at hd with himm
  cases hd
  rw [himm, hword]

/-- R75: a word names a command exactly where it is that command's word in the opcode map. -/
theorem decodeWord_eq_ok {w : U16} {h : Head} : decodeWord w = .ok h ↔ w = h.word := by
  refine ⟨fun hd => ?_, fun hw => hw ▸ decodeWord_word h⟩
  rw [← be16_hi8_lo8 w]
  unfold decodeWord at hd
  generalize hi8 w = op at hd ⊢
  generalize lo8 w = imm at hd ⊢
  dsimp only at hd
  split_ifs at hd with hop hop hop hop hop hreserved hop hop <;> subst hop
  · exact word_of_plainHead hd (by decide)
  · cases hd
    exact (word_rxFeed _).symm
  · exact word_of_plainHead hd (by decide)
  · exact word_of_plainHead hd (by decide)
  · cases hd
    rw [imm_eq_of_reserved_zero hreserved]
    cases imm.getLsbD 0 <;> decide
  · exact word_of_plainHead hd (by decide)
  · exact word_of_plainHead hd (by decide)

/-- R69, R75: a port accepts a word exactly where it is the word of a command of that port. -/
theorem decodeHead_eq_ok {p : Port} {w : U16} {h : Head} : decodeHead p w = .ok h ↔ h.port = p ∧ w = h.word := by
  unfold decodeHead
  split
  · next r hd =>
    have hnone : w ≠ h.word := fun hw => by simp [decodeWord_eq_ok.mpr hw] at hd
    simp [hnone]
  · next h' hd =>
    obtain rfl := decodeWord_eq_ok.mp hd
    have hsame : h'.word = h.word ↔ h' = h := by
      rw [← decodeWord_eq_ok, decodeWord_word, Except.ok.injEq]
    rw [hsame]
    split_ifs with hp
    · simp only [Except.ok.injEq]
      exact ⟨fun e => ⟨e ▸ hp, e⟩, And.right⟩
    · simp only [false_iff]
      exact fun ⟨hport, e⟩ => hp (e ▸ hport)

/-! ### Operands (R66, R68) -/

/-- The opcode map's row of a command (R69). -/
def Instr.head : Instr → Head
  | .rxReset => .rxReset
  | .rxFeed b => .rxFeed b
  | .txPacket _ => .txPacket
  | .crc16 _ => .crc16
  | .b64Encode pad _ _ => .b64Encode pad
  | .b64Decode _ _ => .b64Decode
  | .b64DecLen _ => .b64DecLen

/-- The bytes of a command after its command word (R66). -/
def Instr.operandBytes : Instr → Bytes
  | .rxReset | .rxFeed _ => []
  | .txPacket data | .crc16 data | .b64DecLen data => payloadBytes data
  | .b64Encode _ cap data | .b64Decode cap data => beBytes cap ++ payloadBytes data

theorem port_head (i : Instr) : i.head.port = i.port := by
  cases i <;> rfl

/-- The encoding of a command is its command word, high byte first, and its operands (R66, R67). -/
theorem encode_eq_word_operands (i : Instr) : encode i = beBytes i.head.word ++ i.operandBytes := by
  cases i with
  | rxReset => rfl
  | rxFeed b => simp [encode, Instr.head, Instr.operandBytes, word_rxFeed, beBytes]
  | b64Encode pad => cases pad <;> simp [encode, Instr.head, Instr.operandBytes, Head.word, beBytes, hi8, lo8]
  | _ => simp [encode, Instr.head, Instr.operandBytes, Head.word, beBytes, hi8, lo8]

/-- R68: operands are read exactly where a command that fits LEN16 has written them. -/
theorem readOperands_eq_some_iff {h : Head} {bs rest : Bytes} {i : Instr} :
    readOperands h bs = some (i, rest) ↔ i.WellFormed ∧ i.head = h ∧ bs = i.operandBytes ++ rest := by
  constructor
  · intro hr
    cases h with
    | rxReset | rxFeed =>
      cases hr
      exact ⟨trivial, rfl, rfl⟩
    | txPacket | crc16 | b64DecLen =>
      obtain ⟨⟨data, tail⟩, hp, he⟩ := Option.map_eq_some_iff.mp hr
      cases he
      obtain ⟨hfits, hbs⟩ := takePayload_eq_some hp
      exact ⟨hfits, rfl, hbs⟩
    | b64Encode | b64Decode =>
      obtain ⟨⟨cap, data, tail⟩, hp, he⟩ := Option.map_eq_some_iff.mp hr
      cases he
      obtain ⟨hfits, hbs⟩ := takeCapPayload_eq_some hp
      exact ⟨hfits, rfl, hbs⟩
  · rintro ⟨hfits, rfl, rfl⟩
    cases i with
    | rxReset | rxFeed => rfl
    | txPacket data | crc16 data | b64DecLen data =>
      simp [readOperands, Instr.head, Instr.operandBytes, takePayload_payloadBytes data rest hfits]
    | b64Encode _ cap data | b64Decode cap data =>
      simp only [readOperands, Instr.head, Instr.operandBytes, takeCapPayload_payloadBytes cap data rest hfits,
        Option.map_some]

/-! ### What stands at the front of a port (R75, R76) -/

theorem takeField_eq_some_iff {bs rest : Bytes} {w : U16} : takeField bs = some (w, rest) ↔ bs = beBytes w ++ rest :=
  ⟨takeField_eq_some, fun h => h ▸ takeField_beBytes w rest⟩

/-- R76: a command is decoded exactly where a word of its port is followed by the operands that word asks for. -/
theorem decode_eq_command {p : Port} {bs rest : Bytes} {i : Instr} :
    decode p bs = .command i rest ↔
      ∃ w tail h, bs = beBytes w ++ tail ∧ decodeHead p w = .ok h ∧ readOperands h tail = some (i, rest) := by
  constructor
  · intro hd
    unfold decode at hd
    split at hd
    · cases hd
    · next w tail hfield =>
      split at hd
      · cases hd
      · next h hhead =>
        split at hd
        · cases hd
        · next i' rest' hoperands =>
          cases hd
          exact ⟨w, tail, h, takeField_eq_some hfield, hhead, hoperands⟩
  · rintro ⟨w, tail, h, rfl, hhead, hoperands⟩
    simp [decode, hhead, hoperands]

/-- R72, R76: an illegal word is taken alone, whatever follows it. -/
theorem decode_eq_illegal {p : Port} {bs rest : Bytes} {why : Reject} :
    decode p bs = .illegal why rest ↔ ∃ w, bs = beBytes w ++ rest ∧ decodeHead p w = .error why := by
  constructor
  · intro hd
    unfold decode at hd
    split at hd
    · cases hd
    · next w tail hfield =>
      split at hd
      · next why' hhead =>
        cases hd
        exact ⟨w, takeField_eq_some hfield, hhead⟩
      · split at hd <;> cases hd
  · rintro ⟨w, rfl, hhead⟩
    simp [decode, hhead]

/-- A port decodes a command exactly where its bytes begin with the encoding of a well-formed command of that port. -/
theorem decode_eq_command_iff_encode {p : Port} {bs rest : Bytes} {i : Instr} :
    decode p bs = .command i rest ↔ i.WellFormed ∧ i.port = p ∧ bs = encode i ++ rest := by
  simp only [decode_eq_command, decodeHead_eq_ok, readOperands_eq_some_iff]
  constructor
  · rintro ⟨w, tail, h, rfl, ⟨hport, rfl⟩, hwf, rfl, rfl⟩
    exact ⟨hwf, port_head i ▸ hport, by rw [encode_eq_word_operands, List.append_assoc]⟩
  · rintro ⟨hwf, hport, rfl⟩
    exact ⟨_, _, i.head, by rw [encode_eq_word_operands, List.append_assoc], ⟨(port_head i).trans hport, rfl⟩,
      hwf, rfl, rfl⟩

/-- A command's encoding alone on its port is decoded to it, and nothing is left. -/
theorem decode_of_encode_eq {i : Instr} {bs : Bytes} (hwf : i.WellFormed) (henc : encode i = bs) :
    decode i.port bs = .command i [] :=
  decode_eq_command_iff_encode.mpr ⟨hwf, rfl, by rw [henc, List.append_nil]⟩

/-- R72: two bytes that are no command word of a port are illegal there. -/
theorem decode_of_no_word {p : Port} {hb lb : Byte} (hnone : ∀ h : Head, h.port = p → be16 hb lb ≠ h.word)
    (rest : Bytes) : ∃ why, decode p (hb :: lb :: rest) = .illegal why rest := by
  cases hd : decodeHead p (be16 hb lb) with
  | ok h =>
    obtain ⟨hport, hword⟩ := decodeHead_eq_ok.mp hd
    exact absurd hword (hnone h hport)
  | error why => exact ⟨why, decode_eq_illegal.mpr ⟨be16 hb lb, by simp [beBytes], hd⟩⟩

/-! ### The statements -/

/-- Settles O1: the encoding of a command is one of the fronts a port decodes to it. -/
theorem decodeOfEncodeIsTheCommand : Obligations.DecodeOfEncodeIsTheCommand :=
  fun _ _ hwf => decode_eq_command_iff_encode.mpr ⟨hwf, rfl, rfl⟩

/-- Settles O2: only encodings are decoded to commands. -/
theorem decodedCommandWasEncoded : Obligations.DecodedCommandWasEncoded :=
  fun _ _ _ _ hd => decode_eq_command_iff_encode.mp hd

/-- Settles O3: the port's check on top of the opcode map. -/
theorem legalWordsAreTheOpcodeMap : Obligations.LegalWordsAreTheOpcodeMap :=
  fun _ _ _ => decodeHead_eq_ok

/-- Settles O56: what is decoded is named by the bytes at the front, and later bytes join what follows them. -/
theorem laterBytesWaitTheirTurn : Obligations.LaterBytesWaitTheirTurn := by
  refine fun p bs later rest => ⟨fun i hd => ?_, fun why hd => ?_⟩
  · obtain ⟨hwf, hport, rfl⟩ := decode_eq_command_iff_encode.mp hd
    exact decode_eq_command_iff_encode.mpr ⟨hwf, hport, List.append_assoc ..⟩
  · obtain ⟨w, rfl, hhead⟩ := decode_eq_illegal.mp hd
    exact decode_eq_illegal.mpr ⟨w, List.append_assoc .., hhead⟩

/-- Settles O4: the assembler and the encoder run on each example; what is encoded decodes back. -/
theorem encodingExamplesHold : Obligations.EncodingExamplesHold := by
  have hfeed (b : Byte) : encode (.rxFeed b) = [0x02#8, b] := rfl
  have hreset : encode .rxReset = [0x01#8, 0x00#8] := rfl
  have hcrc : encode (.crc16 [0x01#8, 0x02#8, 0x03#8, 0x04#8]) =
      [0x20#8, 0x00#8, 0x00#8, 0x04#8, 0x01#8, 0x02#8, 0x03#8, 0x04#8] := by decide
  have hb64 : encode (.b64Encode true 0x0010#16 [0x01#8]) =
      [0x21#8, 0x01#8, 0x00#8, 0x10#8, 0x00#8, 0x01#8, 0x01#8] := by decide
  exact ⟨by decide, by decide, by decide, by decide, by decide,
    hfeed _, decode_of_encode_eq trivial (hfeed _), hfeed _, decode_of_encode_eq trivial (hfeed _),
    hreset, decode_of_encode_eq trivial hreset, hcrc, decode_of_encode_eq (by decide) hcrc,
    hb64, decode_of_encode_eq (by decide) hb64, by decide, by decide, by decide⟩

/-- Settles O6: the word is decoded as illegal, and the engine's turn answers it. -/
theorem illegalWordIsAnsweredAndChangesNothing : Obligations.IllegalWordIsAnsweredAndChangesNothing := by
  refine ⟨fun s hb lb rest hu hin hnone => ?_, fun s hb lb rest hw hin hnone => ?_⟩
  · obtain ⟨why, hd⟩ := decode_of_no_word hnone rest
    exact rxTurn_illegal hu (hin ▸ hd)
  · obtain ⟨why, hd⟩ := decode_of_no_word hnone rest
    exact txTurn_illegal hw (hin ▸ hd)

end Sys2Proof
end

section
/-!
PROOFS. The assembler (30_encoding.md R78, R79): what it reads from a bracketed list, from a decimal number and from the
word at the front of a line, and the pseudo-instructions that follow from these.
-/

namespace Sys2Proof.Machine.Asm

/-! ### A bracketed list (R78) -/

/-- The digits the list is written with are read back (log entry 17). -/
theorem hexDigit_digitChar : ∀ n < 16, hexDigit (Nat.digitChar n) = some n := by
  decide

/-- A digit is neither a blank nor the end of the list. -/
theorem digitChar_in_list : ∀ n < 16, isBlank (Nat.digitChar n) = false ∧ Nat.digitChar n ≠ ']' := by
  decide

/-- A listed byte is read back. -/
theorem hexByte_of_hexChars (b : Byte) :
    hexByte (Nat.digitChar (b.toNat / 16)) (Nat.digitChar (b.toNat % 16)) = some b := by
  have hb := b.isLt
  rw [hexByte, hexDigit_digitChar _ (by omega), hexDigit_digitChar _ (by omega)]
  exact congrArg some (BitVec.eq_of_toNat_eq (by rw [Nat.div_add_mod, BitVec.toNat_ofNat, Nat.mod_eq_of_lt hb]))

theorem bracketed_end (rest : List Char) : bracketed (']' :: rest) = some ([], rest) := by
  rw [bracketed.eq_def]
  rfl

theorem bracketed_hexChars (b : Byte) (cs : List Char) :
    bracketed (hexChars b ++ cs) = (bracketed cs).map fun (bs, rest) => (b :: bs, rest) := by
  have hb := b.isLt
  obtain ⟨hblank, hend⟩ := digitChar_in_list (b.toNat / 16) (by omega)
  simp only [hexChars, List.cons_append, List.nil_append, bracketed, hblank, hend, hexByte_of_hexChars]
  cases bracketed cs <;> rfl

/-- The bytes of a bracketed list are read back. -/
theorem bracketed_listed (bs : Bytes) (rest : List Char) :
    bracketed (bs.flatMap hexChars ++ ']' :: rest) = some (bs, rest) := by
  induction bs with
  | nil => exact bracketed_end rest
  | cons b bs ih => rw [List.flatMap_cons, List.append_assoc, bracketed_hexChars, ih, Option.map_some]

theorem bytesItem_listed (bs : Bytes) : bytesItem (listed bs) = some (bs, []) :=
  bracketed_listed bs []

/-- A bracketed list is a whole operand `<bytes>`. -/
theorem bytesToEnd_listed (bs : Bytes) : bytesToEnd (listed bs) = some bs := by
  have hitems : bytesOperand (listed bs) = some (bs, []) := by
    unfold bytesOperand
    rw [show (listed bs).length = (bs.flatMap hexChars ++ [']']).length + 1 from rfl, bytesItems, bytesItem_listed]
    rfl
  rw [bytesToEnd, hitems]
  rfl

theorem fedLine_listed (make : Bytes → Line) (bs : Bytes) : fedLine make (listed bs) = some (make bs) := by
  rw [fedLine, bytesToEnd_listed, Option.map_some]

theorem bytesLine_listed (make : Bytes → Line) {bs : Bytes} (hfits : PayloadFits bs) :
    bytesLine make (listed bs) = some (make bs) := by
  rw [bytesLine, bytesToEnd_listed]
  exact if_pos hfits

/-! ### A number of groups a frame (R79) -/

/-- A character of a mnemonic: it ends neither the word nor the line (R77). -/
abbrev InWord (c : Char) : Prop := isBlank c = false ∧ c ≠ ';'

theorem toNat_of_isDigit {c : Char} (h : c.isDigit = true) : 0x30 ≤ c.toNat ∧ c.toNat ≤ 0x39 := by
  simp only [Char.isDigit, ge_iff_le, UInt32.le_iff_toNat_le, Bool.and_eq_true, decide_eq_true_eq] at h
  exact h

theorem inWord_of_isDigit {c : Char} (h : c.isDigit = true) : InWord c := by
  obtain ⟨hlow, -⟩ := toNat_of_isDigit h
  have hne (d : Char) (hd : d.isDigit = false) : c ≠ d := fun e => by simp [← e, h] at hd
  have htab : c.toNat ≠ 9 := by omega
  simp [InWord, isBlank, hne ' ' rfl, hne ';' rfl, htab]

theorem decDigit_of_isDigit {c : Char} (h : c.isDigit = true) : decDigit c = some (c.toNat - '0'.toNat) :=
  if_pos (toNat_of_isDigit h)

theorem digits_decDigit {cs : List Char} (h : ∀ c ∈ cs, c.isDigit = true) (acc : Nat) :
    digits decDigit 10 acc cs = (Nat.ofDigitChars 10 cs acc, []) := by
  induction cs generalizing acc with
  | nil => rfl
  | cons c cs ih =>
    obtain ⟨hc, hcs⟩ := List.forall_mem_cons.mp h
    simp only [digits, decDigit_of_isDigit hc, ih hcs, Nat.ofDigitChars_cons, Nat.mul_comm]

theorem digitsFrom_decDigit {cs : List Char} (hne : cs ≠ []) (h : ∀ c ∈ cs, c.isDigit = true) :
    digitsFrom decDigit 10 cs = some (Nat.ofDigitChars 10 cs 0, []) := by
  obtain ⟨c, cs, rfl⟩ := List.exists_cons_of_ne_nil hne
  obtain ⟨hc, hcs⟩ := List.forall_mem_cons.mp h
  simp only [digitsFrom, decDigit_of_isDigit hc, Option.map_some, digits_decDigit hcs, Nat.ofDigitChars_cons,
    Nat.mul_zero, Nat.zero_add]

theorem isDigit_of_mem_decimal {k : Nat} : ∀ c ∈ Nat.toDigits 10 k, c.isDigit = true :=
  fun _ => Nat.isDigit_of_mem_toDigits (by decide) (by decide)

/-- A number of groups within its range is read back from its decimal digits (log entry 17). -/
theorem feedFramesGroups_toDigits {k : Nat} (hlow : 2 ≤ k) (hhigh : k ≤ 31) :
    feedFramesGroups (Nat.toDigits 10 k) = some k := by
  rw [feedFramesGroups, digitsFrom_decDigit Nat.toDigits_ne_nil isDigit_of_mem_decimal,
    Nat.ofDigitChars_toDigits (by decide) (by decide)]
  exact if_pos ⟨hlow, hhigh⟩

/-! ### The word of a line (R77, R79) -/

theorem word_append {w rest : List Char} (hw : ∀ c ∈ w, InWord c) : word (w ++ ' ' :: rest) = (w, ' ' :: rest) := by
  induction w with
  | nil => rfl
  | cons c w ih =>
    obtain ⟨⟨hblank, hcomment⟩, hrest⟩ := List.forall_mem_cons.mp hw
    simp [word, hblank, hcomment, ih hrest]

/-- A line of a word, a blank and a bracketed list is read as that word with that operand. -/
theorem assembleLine_listed {w : List Char} {line : Line} (hne : w ≠ []) (hw : ∀ c ∈ w, InWord c) {bs : Bytes}
    (hline : parseWord w (listed bs) = some line) :
    assembleLine (w ++ ' ' :: listed bs) = some line.expand := by
  obtain ⟨c, w', rfl⟩ := List.exists_cons_of_ne_nil hne
  obtain ⟨hblank, hcomment⟩ := hw c List.mem_cons_self
  have hfront : skipBlanks (c :: w' ++ ' ' :: listed bs) = c :: w' ++ ' ' :: listed bs := by
    simp [skipBlanks, hblank]
  have hoperand : skipBlanks (' ' :: listed bs) = listed bs := rfl
  have hnotEnd : atEnd (c :: w' ++ ' ' :: listed bs) = false := by
    rw [atEnd, hfront]
    exact decide_eq_false hcomment
  rw [assembleLine, hnotEnd, hfront, word_append hw]
  simp only [Bool.false_eq_true, if_false, hoperand, hline, Option.map_some]

/-- `FEEDFRAMES.K`, the mnemonic before the number of groups (R79). -/
def feedFramesK : List Char := ['F', 'E', 'E', 'D', 'F', 'R', 'A', 'M', 'E', 'S', '.', 'K']

theorem parseWord_feedFramesK {n cs : List Char} {k : Nat} (hk : feedFramesGroups n = some k) :
    parseWord (feedFramesK ++ n) cs = bytesLine (.feedFrames k) cs := by
  simp [parseWord, feedFramesK, hk]

theorem inWord_feedFramesK (k : Nat) : ∀ c ∈ feedFramesK ++ Nat.toDigits 10 k, InWord c := by
  intro c hc
  obtain hc | hc := List.mem_append.mp hc
  · exact (show ∀ c ∈ feedFramesK, InWord c by simp [feedFramesK, InWord, isBlank]) c hc
  · exact inWord_of_isDigit (isDigit_of_mem_decimal c hc)

/-! ### The statement -/

/-- Settles O60: each mnemonic is the word of its line, and the list is its operand. -/
theorem pseudoInstructionsExpand : Obligations.PseudoInstructionsExpand := by
  refine ⟨fun bs => ?_, fun bs => ?_, fun bs hfits => ?_, fun k bs hlow hhigh hfits => ?_⟩
  · exact assembleLine_listed (w := ['F', 'E', 'E', 'D', 'S']) (by simp) (by simp [InWord, isBlank]) (fedLine_listed .feeds bs)
  · exact assembleLine_listed (w := ['F', 'E', 'E', 'D', 'L', 'I', 'N', 'E']) (by simp) (by simp [InWord, isBlank])
      (fedLine_listed .feedLine bs)
  · exact assembleLine_listed (w := ['F', 'E', 'E', 'D', 'F', 'R', 'A', 'M', 'E', 'S']) (by simp) (by simp [InWord, isBlank])
      (bytesLine_listed (.feedFrames 31) hfits)
  · have hline : parseWord (feedFramesK ++ Nat.toDigits 10 k) (listed bs) = some (.feedFrames k bs) :=
      (parseWord_feedFramesK (feedFramesGroups_toDigits hlow hhigh)).trans (bytesLine_listed _ hfits)
    have hexpand := assembleLine_listed (by simp [feedFramesK]) (inWord_feedFramesK k) hline
    rwa [List.append_cons] at hexpand

end Sys2Proof.Machine.Asm
end

section
/-!
PROOFS. The CRC (40_crc16.md): a shift of the register is linear, and shifts plainly where bit 15 stays 0. So a byte enters
as R88's table form says, and the register's own high byte, fed back, leaves only its low byte (R89).
-/

namespace Sys2Proof.Machine

/-! ### The shifts of the register (R86) -/

/-- A shift is linear: the polynomial enters for the sum where it enters for one of the two, and cancels where for both. -/
theorem crcShift_xor (v w : U16) : crcShift (v ^^^ w) = crcShift v ^^^ crcShift w := by
  simp only [crcShift, BitVec.getLsbD_xor, BitVec.shiftLeft_xor_distrib]
  cases v.getLsbD 15 <;> cases w.getLsbD 15 <;> simp [BitVec.xor_assoc, BitVec.xor_comm (w <<< 1)]

theorem crcShifts_xor (n : Nat) (v w : U16) : crcShifts n (v ^^^ w) = crcShifts n v ^^^ crcShifts n w := by
  induction n generalizing v w with
  | zero => rfl
  | succ n ih => simp only [crcShifts, crcShift_xor, ih]

theorem crcShift_eq_shiftLeft {v : U16} (h : v.toNat < 2 ^ 15) : crcShift v = v <<< 1 := by
  have hbit : v.getLsbD 15 = false := Nat.testBit_lt_two_pow h
  rw [crcShift, hbit, if_neg Bool.false_ne_true]

/-- The polynomial never enters while no 1 reaches bit 15. -/
theorem crcShifts_eq_shiftLeft {n : Nat} {v : U16} (h : v.toNat * 2 ^ n < 2 ^ 16) : crcShifts n v = v <<< n := by
  induction n generalizing v with
  | zero => rw [crcShifts, BitVec.shiftLeft_zero]
  | succ n ih =>
    rw [pow_succ', ← mul_assoc] at h
    have hle : v.toNat * 2 ≤ v.toNat * 2 * 2 ^ n := Nat.le_mul_of_pos_right _ (Nat.two_pow_pos n)
    have hshift : (v <<< 1).toNat = v.toNat * 2 := by
      rw [BitVec.toNat_shiftLeft, Nat.shiftLeft_eq]
      omega
    rw [crcShifts, crcShift_eq_shiftLeft (by omega), ih (hshift ▸ h), ← BitVec.shiftLeft_add, Nat.add_comm]

/-! ### The bytes of the register -/

/-- A byte at bits 15..8 meets the high byte alone. -/
theorem xor_byte_eq_hi8_lo8 (v : U16) (b : Byte) :
    v ^^^ (b.setWidth 16 <<< 8) = ((hi8 v ^^^ b).setWidth 16 <<< 8) ^^^ (lo8 v).setWidth 16 := by
  refine BitVec.eq_of_getLsbD_eq fun i hi => ?_
  obtain hlow | hhigh := Nat.lt_or_ge i 8
  · simp [hi8, lo8, hlow, hi]
  · simp [hi8, lo8, Nat.not_lt.mpr hhigh, Nat.add_sub_cancel' hhigh, show i - 8 < 8 by omega, hi]

theorem setWidth_lo8_shiftLeft (v : U16) : (lo8 v).setWidth 16 <<< 8 = v <<< 8 := by
  apply BitVec.eq_of_toNat_eq
  simp only [BitVec.toNat_shiftLeft, BitVec.toNat_setWidth, lo8_toNat, Nat.shiftLeft_eq]
  omega

theorem hi8_shiftLeft (v : U16) : hi8 (v <<< 8) = lo8 v := by
  apply BitVec.eq_of_toNat_eq
  rw [hi8_toNat, lo8_toNat, BitVec.toNat_shiftLeft, Nat.shiftLeft_eq]
  omega

/-! ### A byte enters (R86, R88) -/

@[simp] theorem crcByte_zero_zero : crcByte 0x0000#16 0x00#8 = 0x0000#16 := by decide

/-- R88: the high byte of the register and the byte that enters choose the entry; the low byte moves up. -/
theorem crcByte_eq_table (v : U16) (b : Byte) : crcByte v b = (v <<< 8) ^^^ crcByte 0x0000#16 (hi8 v ^^^ b) := by
  have hlow : crcShifts 8 ((lo8 v).setWidth 16) = v <<< 8 := by
    have := (lo8 v).isLt
    rw [crcShifts_eq_shiftLeft (by rw [BitVec.toNat_setWidth]; omega), setWidth_lo8_shiftLeft]
  calc crcByte v b
    _ = crcShifts 8 (((hi8 v ^^^ b).setWidth 16 <<< 8) ^^^ (lo8 v).setWidth 16) := by rw [crcByte, xor_byte_eq_hi8_lo8]
    _ = crcShifts 8 ((hi8 v ^^^ b).setWidth 16 <<< 8) ^^^ (v <<< 8) := by rw [crcShifts_xor, hlow]
    _ = (v <<< 8) ^^^ crcByte 0x0000#16 (hi8 v ^^^ b) := by rw [crcByte, BitVec.zero_xor, BitVec.xor_comm]

/-- Fed its own high byte, the register keeps only its low byte. -/
theorem crcByte_hi8 (v : U16) : crcByte v (hi8 v) = v <<< 8 := by
  rw [crcByte_eq_table, BitVec.xor_self, crcByte_zero_zero, BitVec.xor_zero]

/-! ### The bytes of a string -/

theorem crcFrom_append (v : U16) (m n : Bytes) : crcFrom v (m ++ n) = crcFrom (crcFrom v m) n := by
  induction m generalizing v with
  | nil => rfl
  | cons b m ih => exact ih (crcByte v b)

theorem crc16_append (m n : Bytes) : crc16 (m ++ n) = crcFrom (crc16 m) n :=
  crcFrom_append 0x0000#16 m n

/-- The register fed its own two bytes is zero. -/
theorem crcFrom_beBytes (v : U16) : crcFrom v (beBytes v) = 0x0000#16 := by
  calc crcFrom v (beBytes v)
    _ = crcByte (crcByte v (hi8 v)) (lo8 v) := rfl
    _ = crcByte (v <<< 8) (hi8 (v <<< 8)) := by rw [crcByte_hi8, hi8_shiftLeft]
    _ = v <<< (8 + 8) := by rw [crcByte_hi8, BitVec.shiftLeft_add]
    _ = 0x0000#16 := BitVec.shiftLeft_eq_zero (by decide)

theorem crc16_replicate_zero (n : Nat) : crc16 (List.replicate n 0x00#8) = 0x0000#16 := by
  induction n with
  | zero => rfl
  | succ n ih => rwa [List.replicate_succ, crc16, crcFrom, crcByte_zero_zero]

/-! ### The statements -/

/-- Settles O27: the trailer is the register itself, fed back to it. -/
theorem crcOfStringAndItsCrcIsZero : Obligations.CrcOfStringAndItsCrcIsZero := fun m => by
  rw [crc16_append, crcFrom_beBytes]

/-- Settles O28: an entry of the table is the register after one byte. -/
theorem crcTableFormAgrees : Obligations.CrcTableFormAgrees := fun m b => by
  rw [crc16_append]
  exact crcByte_eq_table (crc16 m) b

theorem exec_crc16 (data : Bytes) (s : State) :
    exec (.crc16 data) s = .next (s.respondTx { status := .ok, payload := .val16 (crc16 data) }) := rfl

/-- Settles O26: the command makes its one response on the TX port and nothing else. -/
theorem crc16CommandAnswersTheCrc : Obligations.Crc16CommandAnswersTheCrc :=
  fun s data => exec_crc16 data s

/-- Settles O30: an all-zero string leaves the register at 0 by induction on its length; the rest are computed (R90, R92). -/
theorem crcCornerValues : Obligations.CrcCornerValues := by
  refine ⟨rfl, crc16_replicate_zero, by decide, by decide, by decide, fun n => ?_, by decide +kernel⟩
  rw [crc16_replicate_zero]
  rfl

end Sys2Proof.Machine
end

section
/-!
PROOFS. The Base64 codec (41_base64.md): what the decoder accepts as one group, as an inductive; that a group is accepted
exactly where it is the padded encoding of its bytes, and so a text (R105). The unpadded encoding is the text without its `=`,
and the lengths (R99, R104) and the strict texts (R100 to R103) are read off from it.
-/

namespace Sys2Proof.Machine

/-! ### The bytes and the six-bit values of a 24-bit value (R97) -/

/-- The 24-bit value of four six-bit values, the first most significant (R100). -/
def sextets (v0 v1 v2 v3 : Nat) : Nat := v0 * 2 ^ 18 + v1 * 2 ^ 12 + v2 * 2 ^ 6 + v3

theorem sextets_lt {c0 c1 c2 c3 : Byte} {v0 v1 v2 v3 : Nat} (h0 : b64Val c0 = some v0) (h1 : b64Val c1 = some v1)
    (h2 : b64Val c2 = some v2) (h3 : b64Val c3 = some v3) : sextets v0 v1 v2 v3 < 2 ^ 24 := by
  have := b64Val_lt h0
  have := b64Val_lt h1
  have := b64Val_lt h2
  have := b64Val_lt h3
  simp only [sextets]
  omega

theorem be24_lt (b0 b1 b2 : Byte) : be24 b0 b1 b2 < 2 ^ 24 := by
  simp only [be24]
  omega

theorem sextets_bitField {w : Nat} (h : w < 2 ^ 24) :
    sextets (bitField w 23 18) (bitField w 17 12) (bitField w 11 6) (bitField w 5 0) = w := by
  simp only [sextets, bitField]
  omega

/-- Four characters are those of the value their six-bit values make. -/
theorem b64Chars_sextets {c0 c1 c2 c3 : Byte} {v0 v1 v2 v3 : Nat} (h0 : b64Val c0 = some v0) (h1 : b64Val c1 = some v1)
    (h2 : b64Val c2 = some v2) (h3 : b64Val c3 = some v3) : b64Chars (sextets v0 v1 v2 v3) = [c0, c1, c2, c3] := by
  have := b64Val_lt h0
  have := b64Val_lt h1
  have := b64Val_lt h2
  have := b64Val_lt h3
  have hf0 : bitField (sextets v0 v1 v2 v3) 23 18 = v0 := by simp only [bitField, sextets]; omega
  have hf1 : bitField (sextets v0 v1 v2 v3) 17 12 = v1 := by simp only [bitField, sextets]; omega
  have hf2 : bitField (sextets v0 v1 v2 v3) 11 6 = v2 := by simp only [bitField, sextets]; omega
  have hf3 : bitField (sextets v0 v1 v2 v3) 5 0 = v3 := by simp only [bitField, sextets]; omega
  rw [b64Chars, hf0, hf1, hf2, hf3, b64Chr_b64Val h0, b64Chr_b64Val h1, b64Chr_b64Val h2, b64Chr_b64Val h3]

theorem be24_byteField {w : Nat} (h : w < 2 ^ 24) :
    be24 (byteField w 23 16) (byteField w 15 8) (byteField w 7 0) = w := by
  simp only [be24, byteField, bitField, BitVec.toNat_ofNat]
  omega

theorem byteFields_be24 (b0 b1 b2 : Byte) :
    byteField (be24 b0 b1 b2) 23 16 = b0 ∧ byteField (be24 b0 b1 b2) 15 8 = b1 ∧ byteField (be24 b0 b1 b2) 7 0 = b2 := by
  refine ⟨?_, ?_, ?_⟩ <;> apply BitVec.eq_of_toNat_eq <;>
    simp only [be24, byteField, bitField, BitVec.toNat_ofNat] <;> omega

/-- A group with one byte missing leaves the low 8 bits of its value zero (R98). -/
theorem be24_mod_of_two (b0 b1 : Byte) : be24 b0 b1 0#8 % 2 ^ 8 = 0 := by
  simp only [be24, BitVec.toNat_ofNat]
  omega

/-- A group with two bytes missing leaves the low 16 bits of its value zero (R98). -/
theorem be24_mod_of_one (b0 : Byte) : be24 b0 0#8 0#8 % 2 ^ 16 = 0 := by
  simp only [be24, BitVec.toNat_ofNat]
  omega

/-! ### The encoding of a group (R97, R98) -/

theorem b64Enc_three_byteFields {w : Nat} (hw : w < 2 ^ 24) :
    b64Enc true [byteField w 23 16, byteField w 15 8, byteField w 7 0] = b64Chars w := by
  rw [b64Enc, be24_byteField hw, b64Enc, List.append_nil]

theorem b64Enc_two_byteFields {w : Nat} (hw : w < 2 ^ 24) (h : w % 2 ^ 8 = 0) :
    b64Enc true [byteField w 23 16, byteField w 15 8] = (b64Chars w).take 3 ++ [b64Pad] := by
  have hlow : byteField w 7 0 = 0#8 := by simp only [byteField, bitField]; congr 1; omega
  rw [b64Enc, ← hlow, be24_byteField hw]
  rfl

theorem b64Enc_one_byteField {w : Nat} (hw : w < 2 ^ 24) (h : w % 2 ^ 16 = 0) :
    b64Enc true [byteField w 23 16] = (b64Chars w).take 2 ++ [b64Pad, b64Pad] := by
  have hlow : byteField w 7 0 = 0#8 := by simp only [byteField, bitField]; congr 1; omega
  have hmid : byteField w 15 8 = 0#8 := by simp only [byteField, bitField]; congr 1; omega
  have hw' := be24_byteField hw
  rw [hmid, hlow] at hw'
  rw [b64Enc, hw']
  rfl

/-! ### The decoding of a group (R100 to R103) -/

/-- The character of value 0, which a padded group's missing characters count as (R98). -/
theorem b64Val_A : b64Val 0x41#8 = some 0 := by decide

/-- What the decoder makes of a group of four characters (R100 to R103): each character has a value or is one of the last one or
two `=`, which only the last group has, and the bits that a padded group does not use are zero (R102). -/
inductive DecodedGroup (last : Bool) : Byte → Byte → Byte → Byte → Bytes → Prop
  | full {c0 c1 c2 c3 : Byte} {v0 v1 v2 v3 : Nat} (h0 : b64Val c0 = some v0) (h1 : b64Val c1 = some v1)
      (h2 : b64Val c2 = some v2) (h3 : b64Val c3 = some v3) :
      DecodedGroup last c0 c1 c2 c3 [byteField (sextets v0 v1 v2 v3) 23 16, byteField (sextets v0 v1 v2 v3) 15 8,
        byteField (sextets v0 v1 v2 v3) 7 0]
  | onePad {c0 c1 c2 : Byte} {v0 v1 v2 : Nat} (hlast : last = true) (h0 : b64Val c0 = some v0) (h1 : b64Val c1 = some v1)
      (h2 : b64Val c2 = some v2) (hunused : v2 % 4 = 0) :
      DecodedGroup last c0 c1 c2 b64Pad [byteField (sextets v0 v1 v2 0) 23 16, byteField (sextets v0 v1 v2 0) 15 8]
  | twoPads {c0 c1 : Byte} {v0 v1 : Nat} (hlast : last = true) (h0 : b64Val c0 = some v0) (h1 : b64Val c1 = some v1)
      (hunused : v1 % 16 = 0) :
      DecodedGroup last c0 c1 b64Pad b64Pad [byteField (sextets v0 v1 0 0) 23 16]

theorem b64DecGroup_eq_some_iff {last : Bool} {c0 c1 c2 c3 : Byte} {g : Bytes} :
    b64DecGroup last c0 c1 c2 c3 = some g ↔ DecodedGroup last c0 c1 c2 c3 g := by
  constructor
  · intro h
    unfold b64DecGroup at h
    split at h
    · next v0 v1 h0 h1 =>
      unfold b64DecTail at h
      split at h
      · next v2 v3 h2 h3 =>
        cases h
        exact .full h0 h1 h2 h3
      · next v2 h2 _ =>
        split_ifs at h with hpad hunused
        cases h
        obtain ⟨hlast, rfl⟩ := hpad
        simpa [sextets] using DecodedGroup.onePad hlast h0 h1 h2 (by simpa [bitField] using hunused)
      · split_ifs at h with hpads hunused
        cases h
        obtain ⟨hlast, rfl, rfl⟩ := hpads
        simpa [sextets] using DecodedGroup.twoPads hlast h0 h1 (by simpa [bitField] using hunused)
    · cases h
  · rintro (⟨h0, h1, h2, h3⟩ | ⟨hlast, h0, h1, h2, hunused⟩ | ⟨hlast, h0, h1, hunused⟩)
    · simp [b64DecGroup, b64DecTail, h0, h1, h2, h3, sextets]
    · simp [b64DecGroup, b64DecTail, h0, h1, h2, b64Val_b64Pad, hlast, bitField, hunused, sextets]
    · simp [b64DecGroup, b64DecTail, h0, h1, b64Val_b64Pad, hlast, bitField, hunused, sextets]

/-- Padded encoding undoes the decoding of a group, and only a last group has fewer than three bytes. -/
theorem DecodedGroup.b64Enc_eq {last : Bool} {c0 c1 c2 c3 : Byte} {g : Bytes} (h : DecodedGroup last c0 c1 c2 c3 g) :
    b64Enc true g = [c0, c1, c2, c3] ∧ (g.length = 3 ∨ last = true) := by
  cases h with
  | full h0 h1 h2 h3 =>
    refine ⟨?_, .inl rfl⟩
    rw [b64Enc_three_byteFields (sextets_lt h0 h1 h2 h3), b64Chars_sextets h0 h1 h2 h3]
  | onePad hlast h0 h1 h2 hunused =>
    refine ⟨?_, .inr hlast⟩
    rw [b64Enc_two_byteFields (sextets_lt h0 h1 h2 b64Val_A) (by simp only [sextets]; omega),
      b64Chars_sextets h0 h1 h2 b64Val_A]
    rfl
  | twoPads hlast h0 h1 hunused =>
    refine ⟨?_, .inr hlast⟩
    rw [b64Enc_one_byteField (sextets_lt h0 h1 b64Val_A b64Val_A) (by simp only [sextets]; omega),
      b64Chars_sextets h0 h1 b64Val_A b64Val_A]
    rfl

/-- The four characters of a value are accepted in every group. -/
theorem DecodedGroup.of_three_bytes {w : Nat} (last : Bool) (hw : w < 2 ^ 24) :
    DecodedGroup last (b64Chr (bitField w 23 18)) (b64Chr (bitField w 17 12)) (b64Chr (bitField w 11 6))
      (b64Chr (bitField w 5 0)) [byteField w 23 16, byteField w 15 8, byteField w 7 0] := by
  have h := full (last := last) (b64Val_b64Chr _ (bitField_lt w 23 18)) (b64Val_b64Chr _ (bitField_lt w 17 12))
    (b64Val_b64Chr _ (bitField_lt w 11 6)) (b64Val_b64Chr _ (bitField_lt w 5 0))
  rwa [sextets_bitField hw] at h

/-- The first three, where the value has no third byte. -/
theorem DecodedGroup.of_two_bytes {w : Nat} (hw : w < 2 ^ 24) (h : w % 2 ^ 8 = 0) :
    DecodedGroup true (b64Chr (bitField w 23 18)) (b64Chr (bitField w 17 12)) (b64Chr (bitField w 11 6)) b64Pad
      [byteField w 23 16, byteField w 15 8] := by
  have hlow : bitField w 5 0 = 0 := by simp only [bitField]; omega
  have hg := onePad rfl (b64Val_b64Chr _ (bitField_lt w 23 18)) (b64Val_b64Chr _ (bitField_lt w 17 12))
    (b64Val_b64Chr _ (bitField_lt w 11 6)) (by simp only [bitField]; omega)
  rwa [← hlow, sextets_bitField hw] at hg

/-- The first two, where the value has neither a second nor a third byte. -/
theorem DecodedGroup.of_one_byte {w : Nat} (hw : w < 2 ^ 24) (h : w % 2 ^ 16 = 0) :
    DecodedGroup true (b64Chr (bitField w 23 18)) (b64Chr (bitField w 17 12)) b64Pad b64Pad [byteField w 23 16] := by
  have hw' := sextets_bitField hw
  have hmid : bitField w 11 6 = 0 := by simp only [bitField]; omega
  have hlow : bitField w 5 0 = 0 := by simp only [bitField]; omega
  rw [hmid, hlow] at hw'
  have hg := twoPads rfl (b64Val_b64Chr _ (bitField_lt w 23 18)) (b64Val_b64Chr _ (bitField_lt w 17 12))
    (by simp only [bitField]; omega)
  rwa [hw'] at hg

/-! ### The length of an encoding (R99) -/

/-- The number of `=` at the end of a padded encoding (R98). -/
def padCount (d : Bytes) : Nat := (3 - d.length % 3) % 3

theorem padCount_cons (b0 b1 b2 : Byte) (d : Bytes) : padCount (b0 :: b1 :: b2 :: d) = padCount d := by
  simp [padCount, Nat.add_assoc]

/-- A padded encoding is the unpadded one and its `=`. -/
theorem b64Enc_true_eq : ∀ d : Bytes, b64Enc true d = b64Enc false d ++ List.replicate (padCount d) b64Pad
  | [] => rfl
  | [_] => rfl
  | [_, _] => rfl
  | b0 :: b1 :: b2 :: rest => by
    rw [b64Enc, b64Enc, b64Enc_true_eq rest, padCount_cons, List.append_assoc]

theorem length_b64Enc_false : ∀ d : Bytes,
    (b64Enc false d).length = 4 * (d.length / 3) + (if d.length % 3 = 0 then 0 else d.length % 3 + 1)
  | [] => rfl
  | [_] => by simp [b64Enc, b64Chars, b64Padding]
  | [_, _] => by simp [b64Enc, b64Chars, b64Padding]
  | b0 :: b1 :: b2 :: rest => by
    have hgroup (w : Nat) : (b64Chars w).length = 4 := rfl
    rw [b64Enc, List.length_append, hgroup, length_b64Enc_false rest]
    simp only [List.length_cons, Nat.add_mod_right, Nat.add_assoc, Nat.reduceAdd]
    omega

theorem length_b64Enc_true (d : Bytes) : (b64Enc true d).length = 4 * ((d.length + 2) / 3) := by
  rw [b64Enc_true_eq, List.length_append, length_b64Enc_false, List.length_replicate, padCount]
  split_ifs <;> omega

/-! ### A group and its encoding (R105) -/

/-- A group of four characters is accepted exactly where it is the padded encoding of its bytes. -/
theorem decodedGroup_iff_b64Enc {last : Bool} {c0 c1 c2 c3 : Byte} {g : Bytes} :
    DecodedGroup last c0 c1 c2 c3 g ↔ b64Enc true g = [c0, c1, c2, c3] ∧ (g.length = 3 ∨ last = true) := by
  refine ⟨DecodedGroup.b64Enc_eq, fun ⟨henc, hlast⟩ => ?_⟩
  match g with
  | [] => cases henc
  | [b0] =>
    obtain rfl : last = true := by simpa using hlast
    obtain ⟨e0, -, -⟩ := byteFields_be24 b0 0#8 0#8
    cases henc
    simpa only [e0] using DecodedGroup.of_one_byte (be24_lt b0 0#8 0#8) (be24_mod_of_one b0)
  | [b0, b1] =>
    obtain rfl : last = true := by simpa using hlast
    obtain ⟨e0, e1, -⟩ := byteFields_be24 b0 b1 0#8
    cases henc
    simpa only [e0, e1] using DecodedGroup.of_two_bytes (be24_lt b0 b1 0#8) (be24_mod_of_two b0 b1)
  | [b0, b1, b2] =>
    obtain ⟨e0, e1, e2⟩ := byteFields_be24 b0 b1 b2
    cases henc
    simpa only [e0, e1, e2] using DecodedGroup.of_three_bytes last (be24_lt b0 b1 b2)
  | b0 :: b1 :: b2 :: b3 :: rest =>
    have hlen := congrArg List.length henc
    rw [length_b64Enc_true] at hlen
    simp only [List.length_cons, List.length_nil] at hlen
    omega

/-! ### A text (R100, R105) -/

/-- A text's first group, and the rest. -/
theorem b64Dec_cons_eq_some_iff {c0 c1 c2 c3 : Byte} {rest r : Bytes} :
    b64Dec (c0 :: c1 :: c2 :: c3 :: rest) = some r ↔
      ∃ g out, DecodedGroup rest.isEmpty c0 c1 c2 c3 g ∧ b64Dec rest = some out ∧ g ++ out = r := by
  simp only [← b64DecGroup_eq_some_iff]
  rw [b64Dec]
  cases b64DecGroup rest.isEmpty c0 c1 c2 c3 with
  | none => simp
  | some g => cases b64Dec rest <;> simp

theorem b64Dec_b64Enc : ∀ d : Bytes, b64Dec (b64Enc true d) = some d
  | [] => rfl
  | [b0] => b64Dec_cons_eq_some_iff.mpr ⟨[b0], [], decodedGroup_iff_b64Enc.mpr ⟨rfl, .inr rfl⟩, rfl, rfl⟩
  | [b0, b1] => b64Dec_cons_eq_some_iff.mpr ⟨[b0, b1], [], decodedGroup_iff_b64Enc.mpr ⟨rfl, .inr rfl⟩, rfl, rfl⟩
  | b0 :: b1 :: b2 :: rest =>
    b64Dec_cons_eq_some_iff.mpr
      ⟨[b0, b1, b2], rest, decodedGroup_iff_b64Enc.mpr ⟨rfl, .inl rfl⟩, b64Dec_b64Enc rest, rfl⟩

/-- Groups of three bytes are encoded one after another. -/
theorem b64Enc_append_of_three {pad : Bool} {g : Bytes} (h : g.length = 3) (d : Bytes) :
    b64Enc pad (g ++ d) = b64Enc pad g ++ b64Enc pad d := by
  obtain ⟨b0, b1, b2, rfl⟩ := List.length_eq_three.mp h
  simp [b64Enc]

theorem b64Enc_of_b64Dec : ∀ t r : Bytes, b64Dec t = some r → b64Enc true r = t
  | [], _, h => by cases h; rfl
  | [_], _, h => by cases h
  | [_, _], _, h => by cases h
  | [_, _, _], _, h => by cases h
  | c0 :: c1 :: c2 :: c3 :: rest, r, h => by
    obtain ⟨g, out, hg, hout, rfl⟩ := b64Dec_cons_eq_some_iff.mp h
    obtain ⟨hgroup, hthree | hlast⟩ := hg.b64Enc_eq
    · rw [b64Enc_append_of_three hthree, hgroup, b64Enc_of_b64Dec rest out hout]
      rfl
    · obtain rfl := List.isEmpty_iff.mp hlast
      cases hout
      rw [List.append_nil, hgroup]

/-- A text is accepted exactly where it is the padded encoding of its result (R105). -/
theorem b64Dec_eq_some_iff {t r : Bytes} : b64Dec t = some r ↔ b64Enc true r = t :=
  ⟨b64Enc_of_b64Dec t r, fun h => h ▸ b64Dec_b64Enc r⟩

/-! ### The characters of an encoding (R96, R100 to R104) -/

theorem b64Val_of_mem_b64Chars {w : Nat} : ∀ c ∈ b64Chars w, b64Val c ≠ none := by
  intro c hc
  have hval (hi lo : Nat) (h : bitField w hi lo < 64) : b64Val (b64Chr (bitField w hi lo)) ≠ none := by
    rw [b64Val_b64Chr _ h]
    exact Option.some_ne_none _
  simp only [b64Chars, List.mem_cons, List.not_mem_nil, or_false] at hc
  obtain rfl | rfl | rfl | rfl := hc <;> exact hval _ _ (bitField_lt w _ _)

/-- The last character of a text's alphabet characters has a value that is a multiple of `m`. -/
abbrev LastValueMultipleOf (m : Nat) (body : Bytes) : Prop := ∃ c v, body.getLast? = some c ∧ b64Val c = some v ∧ v % m = 0

/-- A strict text is alphabet characters and `=` (R100 to R103): whole groups, at most two `=`, unused bits zero. -/
structure StrictBase64 (body : Bytes) (pads : Nat) : Prop where
  wholeGroups : (body.length + pads) % 4 = 0
  atMostTwo : pads ≤ 2
  alphabet : ∀ c ∈ body, b64Val c ≠ none
  onePad : pads = 1 → LastValueMultipleOf 4 body
  twoPads : pads = 2 → LastValueMultipleOf 16 body

theorem StrictBase64.exists_val {body : Bytes} {pads : Nat} (h : StrictBase64 body pads) {c : Byte} (hc : c ∈ body) :
    ∃ v, b64Val c = some v :=
  Option.ne_none_iff_exists'.mp (h.alphabet c hc)

/-- The `=` fill the last group. -/
theorem StrictBase64.pads_eq {body : Bytes} {pads : Nat} (h : StrictBase64 body pads) :
    pads = (4 - body.length % 4) % 4 := by
  have := h.wholeGroups
  have := h.atMostTwo
  omega

/-- A text's first four alphabet characters are a group of their own. -/
theorem strictBase64_append {g body : Bytes} {pads : Nat} (hg : g.length = 4) :
    StrictBase64 (g ++ body) pads ↔ (∀ c ∈ g, b64Val c ≠ none) ∧ StrictBase64 body pads := by
  have hlast (m : Nat) (hne : body ≠ []) : LastValueMultipleOf m (g ++ body) ↔ LastValueMultipleOf m body := by
    rw [LastValueMultipleOf, List.getLast?_append_of_ne_nil _ hne]
  have hbody (hp : 0 < pads) (hle : pads ≤ 2) (hwhole : (body.length + pads) % 4 = 0) : body ≠ [] := by
    rintro rfl
    simp only [List.length_nil] at hwhole
    omega
  constructor
  · intro ⟨hwhole, hle, halphabet, hone, htwo⟩
    have hwhole' : (body.length + pads) % 4 = 0 := by
      rw [List.length_append] at hwhole
      omega
    obtain ⟨hgroup, hrest⟩ := List.forall_mem_append.mp halphabet
    exact ⟨hgroup, hwhole', hle, hrest, fun hp => (hlast 4 (hbody (by omega) hle hwhole')).mp (hone hp),
      fun hp => (hlast 16 (hbody (by omega) hle hwhole')).mp (htwo hp)⟩
  · intro ⟨hgroup, hwhole, hle, hrest, hone, htwo⟩
    refine ⟨?_, hle, List.forall_mem_append.mpr ⟨hgroup, hrest⟩,
      fun hp => (hlast 4 (hbody (by omega) hle hwhole)).mpr (hone hp),
      fun hp => (hlast 16 (hbody (by omega) hle hwhole)).mpr (htwo hp)⟩
    rw [List.length_append]
    omega

/-- The characters of an encoding before its `=` are a strict text with them. -/
theorem strictBase64_b64Enc : ∀ d : Bytes, StrictBase64 (b64Enc false d) (padCount d)
  | [] => ⟨rfl, by decide, by simp [b64Enc], nofun, nofun⟩
  | [b0] => by
    have hunused : bitField (be24 b0 0#8 0#8) 17 12 % 16 = 0 := by
      simp only [bitField, be24, BitVec.toNat_ofNat]
      omega
    have hpads : padCount [b0] = 2 := by simp [padCount]
    rw [hpads, b64Enc, b64Padding, if_neg Bool.false_ne_true, List.append_nil]
    exact ⟨by simp [b64Chars], le_rfl, fun c hc => b64Val_of_mem_b64Chars c (List.mem_of_mem_take hc), nofun,
      fun _ => ⟨_, _, rfl, b64Val_b64Chr _ (bitField_lt _ 17 12), hunused⟩⟩
  | [b0, b1] => by
    have hunused : bitField (be24 b0 b1 0#8) 11 6 % 4 = 0 := by
      simp only [bitField, be24, BitVec.toNat_ofNat]
      omega
    have hpads : padCount [b0, b1] = 1 := by simp [padCount]
    rw [hpads, b64Enc, b64Padding, if_neg Bool.false_ne_true, List.append_nil]
    exact ⟨by simp [b64Chars], one_le_two, fun c hc => b64Val_of_mem_b64Chars c (List.mem_of_mem_take hc),
      fun _ => ⟨_, _, rfl, b64Val_b64Chr _ (bitField_lt _ 11 6), hunused⟩, nofun⟩
  | b0 :: b1 :: b2 :: rest => by
    rw [b64Enc, padCount_cons, strictBase64_append rfl]
    exact ⟨b64Val_of_mem_b64Chars, strictBase64_b64Enc rest⟩

/-- A strict text is accepted. -/
theorem exists_b64Dec_of_strictBase64 : ∀ (body : Bytes) (pads : Nat), StrictBase64 body pads →
    ∃ r, b64Dec (body ++ List.replicate pads b64Pad) = some r
  | [], pads, h => by
    obtain rfl : pads = 0 := by simpa using h.pads_eq
    exact ⟨[], rfl⟩
  | [_], pads, h => by
    have hthree : pads = 3 := by simpa using h.pads_eq
    have := h.atMostTwo
    omega
  | [c0, c1], pads, h => by
    obtain rfl : pads = 2 := by simpa using h.pads_eq
    obtain ⟨v0, h0⟩ := h.exists_val (c := c0) (by simp)
    obtain ⟨c, v1, hc, h1, hunused⟩ := h.twoPads rfl
    cases hc
    exact ⟨_, b64Dec_cons_eq_some_iff.mpr ⟨_, [], .twoPads rfl h0 h1 hunused, rfl, rfl⟩⟩
  | [c0, c1, c2], pads, h => by
    obtain rfl : pads = 1 := by simpa using h.pads_eq
    obtain ⟨v0, h0⟩ := h.exists_val (c := c0) (by simp)
    obtain ⟨v1, h1⟩ := h.exists_val (c := c1) (by simp)
    obtain ⟨c, v2, hc, h2, hunused⟩ := h.onePad rfl
    cases hc
    exact ⟨_, b64Dec_cons_eq_some_iff.mpr ⟨_, [], .onePad rfl h0 h1 h2 hunused, rfl, rfl⟩⟩
  | c0 :: c1 :: c2 :: c3 :: rest, pads, h => by
    obtain ⟨v0, h0⟩ := h.exists_val (c := c0) (by simp)
    obtain ⟨v1, h1⟩ := h.exists_val (c := c1) (by simp)
    obtain ⟨v2, h2⟩ := h.exists_val (c := c2) (by simp)
    obtain ⟨v3, h3⟩ := h.exists_val (c := c3) (by simp)
    obtain ⟨-, hrest⟩ := (strictBase64_append (g := [c0, c1, c2, c3]) rfl).mp h
    obtain ⟨out, hout⟩ := exists_b64Dec_of_strictBase64 rest pads hrest
    exact ⟨_, b64Dec_cons_eq_some_iff.mpr ⟨_, out, .full h0 h1 h2 h3, hout, rfl⟩⟩

/-- The accepted texts are the strict ones (R100 to R103). -/
theorem b64Dec_ne_none_iff {t : Bytes} :
    b64Dec t ≠ none ↔ ∃ body pads, t = body ++ List.replicate pads b64Pad ∧ StrictBase64 body pads := by
  constructor
  · intro h
    obtain ⟨r, hr⟩ := Option.ne_none_iff_exists'.mp h
    exact ⟨b64Enc false r, padCount r, (b64Dec_eq_some_iff.mp hr).symm.trans (b64Enc_true_eq r), strictBase64_b64Enc r⟩
  · rintro ⟨body, pads, rfl, hstrict⟩
    obtain ⟨r, hr⟩ := exists_b64Dec_of_strictBase64 body pads hstrict
    simp [hr]

/-- The bytes and the `=` of an encoding fill its groups (R104). -/
theorem length_add_count_b64Pad (d : Bytes) : d.length + (b64Enc true d).count b64Pad = 3 * ((d.length + 2) / 3) := by
  have hnone : (b64Enc false d).count b64Pad = 0 :=
    List.count_eq_zero.mpr fun hmem => (strictBase64_b64Enc d).alphabet b64Pad hmem b64Val_b64Pad
  rw [b64Enc_true_eq, List.count_append, hnone, List.count_replicate_self, padCount]
  omega

/-! ### The statements about the codec -/

/-- Settles O35: a text is accepted as the padded encoding of its result. -/
theorem base64CodecIsABijection : Obligations.Base64CodecIsABijection :=
  ⟨b64Dec_b64Enc, b64Enc_of_b64Dec,
    fun _ _ _ h h' => (b64Dec_eq_some_iff.mp h).symm.trans (b64Dec_eq_some_iff.mp h')⟩

/-- Settles O36: the padded length is the unpadded one and the number of `=`. -/
theorem encodedTextLength : Obligations.EncodedTextLength :=
  fun d => ⟨length_b64Enc_true d, length_b64Enc_false d⟩

/-- Settles O37: an accepted text is an encoding, whose length and number of `=` are known. -/
theorem decodedLengthFormula : Obligations.DecodedLengthFormula := by
  intro t n h
  obtain ⟨r, hr, rfl⟩ := Option.map_eq_some_iff.mp h
  obtain rfl := b64Dec_eq_some_iff.mp hr
  rw [length_b64Enc_true, Nat.mul_div_cancel_left _ (by decide)]
  exact ⟨Nat.mul_mod_right .., length_add_count_b64Pad r⟩

/-- Settles O38: the strict texts are those the decoder accepts. -/
theorem acceptedTextIsStrictBase64 : Obligations.AcceptedTextIsStrictBase64 := by
  intro t
  rw [b64Dec_ne_none_iff]
  constructor
  · rintro ⟨body, pads, rfl, hwhole, hle, halphabet, hone, htwo⟩
    exact ⟨by simpa using hwhole, body, pads, rfl, hle, halphabet, hone, htwo⟩
  · rintro ⟨hwhole, body, pads, rfl, hle, halphabet, hone, htwo⟩
    exact ⟨body, pads, rfl, by simpa using hwhole, hle, halphabet, hone, htwo⟩

end Sys2Proof.Machine
end

section
/-!
PROOFS. The Base64 commands (41_base64.md R106, R110, R114): the response of each said once, and what it says of the codec.
-/

namespace Sys2Proof.Machine

/-! ### The commands answer on the TX port, and nothing else changes -/

theorem exec_b64Encode (pad : Bool) (cap : U16) (data : Bytes) (s : State) :
    exec (.b64Encode pad cap data) s = .next (s.respondTx (b64EncodeResponse pad cap data)) := rfl

theorem exec_b64Decode (cap : U16) (data : Bytes) (s : State) :
    exec (.b64Decode cap data) s = .next (s.respondTx (b64DecodeResponse cap data)) := rfl

theorem exec_b64DecLen (data : Bytes) (s : State) :
    exec (.b64DecLen data) s = .next (s.respondTx (b64DecLenResponse data)) := rfl

theorem respondTx_inj {s : State} {r r' : Response} : s.respondTx r = s.respondTx r' ↔ r = r' := by
  refine ⟨fun h => ?_, congrArg s.respondTx⟩
  simpa using congrArg State.txResponses h

theorem exec_b64Decode_eq_next_iff {cap : U16} {data : Bytes} {s : State} {r : Response} :
    exec (.b64Decode cap data) s = .next (s.respondTx r) ↔ b64DecodeResponse cap data = r := by
  rw [exec_b64Decode, Host.Outcome.next.injEq, respondTx_inj]

theorem exec_b64DecLen_eq_next_iff {data : Bytes} {s : State} {r : Response} :
    exec (.b64DecLen data) s = .next (s.respondTx r) ↔ b64DecLenResponse data = r := by
  rw [exec_b64DecLen, Host.Outcome.next.injEq, respondTx_inj]

/-! ### The responses -/

/-- R106, R108, R109. -/
theorem b64EncodeResponse_eq (pad : Bool) (cap : U16) (data : Bytes) :
    b64EncodeResponse pad cap data =
      if (b64Enc pad data).length ≤ cap.toNat then { status := .ok, payload := .data (b64Enc pad data) }
      else { status := .errCap, payload := .val16 (BitVec.ofNat 16 (min (b64Enc pad data).length 65535)) } := by
  simp only [b64EncodeResponse, u16OfNat, ← Nat.not_le, ite_not]

/-- R112: a text that FAILs is answered so at every capacity. -/
theorem b64DecodeResponse_of_fail {data : Bytes} (h : b64Dec data = none) (cap : U16) :
    b64DecodeResponse cap data = { status := .errB64, payload := .empty } := by
  rw [b64DecodeResponse, h]

/-- R110, R113: the capacity decides between an accepted text's bytes and their number. -/
theorem b64DecodeResponse_of_accepted {data r : Bytes} (h : b64Dec data = some r) (cap : U16) :
    b64DecodeResponse cap data =
      if r.length ≤ cap.toNat then { status := .ok, payload := .data r }
      else { status := .errCap, payload := .val16 (BitVec.ofNat 16 r.length) } := by
  simp only [b64DecodeResponse, h, u16OfNat, ← Nat.not_le, ite_not]

theorem b64DecLenResponse_of_fail {data : Bytes} (h : b64Dec data = none) :
    b64DecLenResponse data = { status := .errB64, payload := .empty } := by
  rw [b64DecLenResponse, decLen, h]
  rfl

theorem b64DecLenResponse_of_accepted {data r : Bytes} (h : b64Dec data = some r) :
    b64DecLenResponse data = { status := .ok, payload := .val16 (BitVec.ofNat 16 r.length) } := by
  rw [b64DecLenResponse, decLen, h]
  rfl

/-- Bytes are answered for an accepted text alone, and they are its result. -/
theorem b64Dec_of_b64DecodeResponse {cap : U16} {data r : Bytes}
    (h : b64DecodeResponse cap data = { status := .ok, payload := .data r }) : b64Dec data = some r := by
  cases hdec : b64Dec data with
  | none =>
    rw [b64DecodeResponse_of_fail hdec] at h
    cases h
  | some out =>
    rw [b64DecodeResponse_of_accepted hdec] at h
    split_ifs at h
    · cases h
      rfl
    · cases h

/-- A payload's decoded length fits VAL16, so the answer is that length itself (R68, R114). -/
theorem b64DecLenResponse_eq_ok_iff {data : Bytes} {n : U16} (hfits : PayloadFits data) :
    b64DecLenResponse data = { status := .ok, payload := .val16 n } ↔
      ∃ r, b64Dec data = some r ∧ r.length = n.toNat := by
  cases hdec : b64Dec data with
  | none => simp [b64DecLenResponse_of_fail hdec]
  | some r =>
    have hlen : r.length < 2 ^ 16 := by
      have := b64Dec_length data r hdec
      have : data.length ≤ 65535 := hfits
      omega
    have hval : BitVec.ofNat 16 r.length = n ↔ r.length = n.toNat := by
      rw [← BitVec.toNat_inj, BitVec.toNat_ofNat, Nat.mod_eq_of_lt hlen]
    simp [b64DecLenResponse_of_accepted hdec, hval]

/-! ### The statements about the commands -/

/-- Settles O31: the command's one response, by the capacity. -/
theorem b64EncodeCommandAnswers : Obligations.B64EncodeCommandAnswers := by
  intro s pad cap data
  rw [exec_b64Encode, b64EncodeResponse_eq]
  rfl

/-- Settles O32: the command's one response, by the text and then by the capacity. -/
theorem b64DecodeCommandAnswers : Obligations.B64DecodeCommandAnswers := by
  refine fun s cap data => ⟨fun h => ?_, fun r h hfits => ?_, fun r h hshort => ?_⟩
  · exact exec_b64Decode_eq_next_iff.mpr (b64DecodeResponse_of_fail h cap)
  · exact exec_b64Decode_eq_next_iff.mpr ((b64DecodeResponse_of_accepted h cap).trans (if_pos hfits))
  · exact exec_b64Decode_eq_next_iff.mpr ((b64DecodeResponse_of_accepted h cap).trans (if_neg (Nat.not_le.mpr hshort)))

/-- Settles O33: the command's one response, by the text. -/
theorem b64DecLenCommandAnswers : Obligations.B64DecLenCommandAnswers :=
  fun _ _ => ⟨fun h => exec_b64DecLen_eq_next_iff.mpr (b64DecLenResponse_of_fail h),
    fun _ h => exec_b64DecLen_eq_next_iff.mpr (b64DecLenResponse_of_accepted h)⟩

/-- Settles O34: both commands answer from the one result of the text; a CAP16 of exactly `n` shows that there is one. -/
theorem decLenPredictsDecode : Obligations.DecLenPredictsDecode := by
  intro s data n hfits
  refine (exec_b64DecLen_eq_next_iff.trans (b64DecLenResponse_eq_ok_iff hfits)).trans (exists_congr fun r => ?_)
  constructor
  · rintro ⟨hdec, hlen⟩
    have hval : BitVec.ofNat 16 n.toNat = n := BitVec.eq_of_toNat_eq (by simp)
    refine ⟨hlen, fun cap => exec_b64Decode_eq_next_iff.mpr ?_⟩
    rw [b64DecodeResponse_of_accepted hdec, hlen, hval]
  · rintro ⟨hlen, hdec⟩
    have hexact := exec_b64Decode_eq_next_iff.mp (hdec n)
    rw [if_pos le_rfl] at hexact
    exact ⟨b64Dec_of_b64DecodeResponse hexact, hlen⟩

end Sys2Proof.Machine
end

section
/-!
PROOFS. The CRC's sensitivity (42_rx_decoder.md R148): a shift loses no information, so the register after a string
determines the register before it, and two bytes enter the register as one 16-bit word.
-/

namespace Sys2Proof.Machine

/-! ### Shifts and bytes lose nothing -/

/-- A shift gives zero from zero alone: the polynomial's bit 0 is 1, and a plain shift by one loses only bit 15. -/
theorem crcShift_eq_zero {v : U16} (h : crcShift v = 0x0000#16) : v = 0x0000#16 := by
  cases hbit : v.getLsbD 15 with
  | true =>
    have hlow : (crcShift v).getLsbD 0 = true := by simp [crcShift, hbit]
    simp [h] at hlow
  | false =>
    have hlt : v.toNat < 2 ^ 15 := by
      have hhigh : v.toNat / 2 ^ 15 % 2 ≠ 1 := by
        simpa [BitVec.getLsbD, Nat.testBit_eq_decide_div_mod_eq] using hbit
      omega
    rw [crcShift_eq_shiftLeft hlt] at h
    have hdouble := congrArg BitVec.toNat h
    simp only [BitVec.toNat_shiftLeft, Nat.shiftLeft_eq, BitVec.toNat_ofNat] at hdouble
    exact BitVec.eq_of_toNat_eq (by rw [BitVec.toNat_ofNat]; omega)

theorem crcShifts_eq_zero {n : Nat} {v : U16} (h : crcShifts n v = 0x0000#16) : v = 0x0000#16 := by
  induction n generalizing v with
  | zero => exact h
  | succ n ih => exact crcShift_eq_zero (ih h)

/-- Shifts are linear, so they are injective. -/
theorem crcShifts_inj {n : Nat} {v w : U16} : crcShifts n v = crcShifts n w ↔ v = w := by
  refine ⟨fun h => ?_, congrArg _⟩
  rw [← BitVec.xor_eq_zero_iff, ← crcShifts_xor] at h
  exact BitVec.xor_eq_zero_iff.mp (crcShifts_eq_zero h)

/-- The register after a string determines the register before it. -/
theorem crcFrom_inj {d : Bytes} {v w : U16} : crcFrom v d = crcFrom w d ↔ v = w := by
  induction d generalizing v w with
  | nil => rfl
  | cons b d ih => rw [crcFrom, crcFrom, ih, crcByte, crcByte, crcShifts_inj, BitVec.xor_left_inj]

/-! ### Two bytes are one word -/

theorem be16_eq_xor (a b : Byte) : be16 a b = (a.setWidth 16 <<< 8) ^^^ b.setWidth 16 := by
  have hsplit := xor_byte_eq_hi8_lo8 (be16 a b) 0x00#8
  simpa using hsplit

/-- A byte at bits 7..0 reaches bits 15..8 after 8 shifts: there the next byte enters. -/
theorem crcFrom_pair (v : U16) (a b : Byte) : crcFrom v [a, b] = crcShifts 8 (crcShifts 8 (v ^^^ be16 a b)) := by
  have hlow : crcShifts 8 (b.setWidth 16) = b.setWidth 16 <<< 8 := by
    have := b.isLt
    exact crcShifts_eq_shiftLeft (by rw [BitVec.toNat_setWidth]; omega)
  calc crcFrom v [a, b]
    _ = crcShifts 8 (crcShifts 8 (v ^^^ (a.setWidth 16 <<< 8)) ^^^ (b.setWidth 16 <<< 8)) := rfl
    _ = crcShifts 8 (crcShifts 8 (v ^^^ (a.setWidth 16 <<< 8) ^^^ b.setWidth 16)) := by rw [← hlow, ← crcShifts_xor]
    _ = crcShifts 8 (crcShifts 8 (v ^^^ be16 a b)) := by rw [be16_eq_xor, BitVec.xor_assoc]

/-- From one register, two bytes give the register of no other two. -/
theorem crcFrom_pair_inj {v : U16} {a b a' b' : Byte} : crcFrom v [a, b] = crcFrom v [a', b'] ↔ a = a' ∧ b = b' := by
  rw [crcFrom_pair, crcFrom_pair, crcShifts_inj, crcShifts_inj, BitVec.xor_right_inj, be16_inj]

/-- Settles O29: the bytes after the change keep the registers apart, and those before it are the same. -/
theorem crcDetectsAChangeOfTwoAdjacentBytes : Obligations.CrcDetectsAChangeOfTwoAdjacentBytes := by
  intro front back a b a' b' hne heq
  simp only [crc16_append, crcFrom_inj, crcFrom_pair_inj] at heq
  obtain ⟨ha, hb⟩ := heq
  exact hne.elim (· ha) (· hb)

end Sys2Proof.Machine
end

section
/-!
PROOFS. The verdict on a line (42_rx_decoder.md R128 to R136), by its tag, its text and the number of bytes; and the state
after a line that is discarded.
-/

namespace Sys2Proof

open Machine

theorem exec_rxReset (s : State) :
    exec .rxReset s = .next ({ s.clearContext with ovf := false }.finishRx .reset Response.okNone) := rfl

theorem exec_rxFeed (b : Byte) (s : State) : exec (.rxFeed b) s = execRxFeed b s := rfl

/-! ### The window (R124, R127) -/

@[simp] theorem Machine.State.closeWindow_cfg (s : State) : s.closeWindow.cfg = s.cfg := rfl
@[simp] theorem Machine.State.closeWindow_rawOffset (s : State) : s.closeWindow.rawOffset = s.rawOffset := rfl
@[simp] theorem Machine.State.closeWindow_rawBuf (s : State) : s.closeWindow.rawBuf = s.rawBuf := rfl
@[simp] theorem Machine.State.closeWindow_encBuf (s : State) :
    s.closeWindow.encBuf = s.encBuf.write s.encodedLen newline := rfl
@[simp] theorem Machine.State.closeWindow_rxResponses (s : State) : s.closeWindow.rxResponses = s.rxResponses := rfl
@[simp] theorem Machine.State.storeByte_encBuf (s : State) (b : Byte) :
    (s.storeByte b).encBuf = s.encBuf.write s.encodedLen b := rfl
@[simp] theorem Machine.State.storeByte_encodedLen (s : State) (b : Byte) :
    (s.storeByte b).encodedLen = s.encodedLen + 1 := rfl
@[simp] theorem Machine.State.storeByte_rxResponses (s : State) (b : Byte) :
    (s.storeByte b).rxResponses = s.rxResponses := rfl

@[simp] theorem scratchIndex_eq (s : State) : scratchIndex s = (scratchOverflow s).encodedLen := Nat.zero_add _

/-! ### The verdict on a line (R128 to R136) -/

/-- The two bytes of a frame's tag (30_encoding.md R57). -/
def tagBytes (start : Bool) : Bytes := if start then [0x06#8, 0x09#8] else [0x04#8, 0x14#8]

/-- The two tags as words and as bytes. -/
theorem be16_eq_tag (h l : Byte) :
    (be16 h l = packetStartTag ↔ [h, l] = [0x06#8, 0x09#8]) ∧ (be16 h l = continuationTag ↔ [h, l] = [0x04#8, 0x14#8]) := by
  have hstart : packetStartTag = be16 0x06#8 0x09#8 := by decide
  have hcont : continuationTag = be16 0x04#8 0x14#8 := by decide
  simp [hstart, hcont, be16_inj]

/-- A tagged line is its tag and its text. -/
theorem eq_tag_append_text {line : Bytes} {start : Bool} (ht : line.take 2 = tagBytes start) :
    line = tagBytes start ++ line.drop 2 := by
  rw [← ht, List.take_append_drop]

/-- R128 to R130: a line that is too short for a tag or has an unknown one is no frame. -/
theorem lineVerdict_of_noTag {rawCap rawOffset : Nat} {line : Bytes} (hs : line.take 2 ≠ [0x06#8, 0x09#8])
    (hc : line.take 2 ≠ [0x04#8, 0x14#8]) : lineVerdict rawCap rawOffset line = .discard .notFrame := by
  match line with
  | [] | [_] => rfl
  | h :: l :: text =>
    obtain ⟨hstart, hcont⟩ := be16_eq_tag h l
    exact if_pos ⟨mt hstart.mp hs, mt hcont.mp hc⟩

/-- R131: a continuation with no packet in progress is an orphan. -/
theorem lineVerdict_of_orphan {rawCap : Nat} {line : Bytes} (ht : line.take 2 = tagBytes false) :
    lineVerdict rawCap 0 line = .discard .orphan := by
  rw [eq_tag_append_text ht]
  rfl

/-- R132, R133: a packet-start frame, or a continuation of a packet in progress, is decided by its text. -/
theorem lineVerdict_of_tag {rawCap rawOffset : Nat} {line : Bytes} {start : Bool} (ht : line.take 2 = tagBytes start)
    (ho : start = false → rawOffset ≠ 0) :
    lineVerdict rawCap rawOffset line =
      (b64Dec (line.drop 2)).elim (.discard .badB64) (frameVerdict rawCap start (if start then 0 else rawOffset)) := by
  rw [eq_tag_append_text ht, List.drop_append_of_le_length (by cases start <;> decide)]
  cases start with
  | true => cases hdec : b64Dec (line.drop 2) <;> simp [tagBytes, lineVerdict, be16_eq_tag, hdec]
  | false => cases hdec : b64Dec (line.drop 2) <;> simp [tagBytes, lineVerdict, be16_eq_tag, hdec, ho]

/-- R133: a text that is not strict Base64. -/
theorem lineVerdict_of_badB64 {rawCap rawOffset : Nat} {line : Bytes} {start : Bool} (ht : line.take 2 = tagBytes start)
    (ho : start = false → rawOffset ≠ 0) (hd : b64Dec (line.drop 2) = none) :
    lineVerdict rawCap rawOffset line = .discard .badB64 := by
  rw [lineVerdict_of_tag ht ho, hd, Option.elim_none]

/-- R134 to R136: a frame's bytes are checked. -/
theorem lineVerdict_of_frame {rawCap rawOffset : Nat} {line r : Bytes} {start : Bool} (ht : line.take 2 = tagBytes start)
    (ho : start = false → rawOffset ≠ 0) (hd : b64Dec (line.drop 2) = some r) :
    lineVerdict rawCap rawOffset line = frameVerdict rawCap start (if start then 0 else rawOffset) r := by
  rw [lineVerdict_of_tag ht ho, hd, Option.elim_some]

theorem frameVerdict_of_cap {rawCap base : Nat} {start : Bool} {r : Bytes} (h : rawCap < base + r.length) :
    frameVerdict rawCap start base r = .discard .cap := if_pos h

theorem frameVerdict_of_short {rawCap base : Nat} {r : Bytes} (hfits : base + r.length ≤ rawCap) (hshort : r.length < 2) :
    frameVerdict rawCap true base r = .discard .short :=
  (if_neg (Nat.not_lt.mpr hfits)).trans (if_pos ⟨rfl, hshort⟩)

theorem frameVerdict_of_fits {rawCap base : Nat} {start : Bool} {r : Bytes} (hfits : base + r.length ≤ rawCap)
    (hlong : start = true → 2 ≤ r.length) : frameVerdict rawCap start base r = .accept start base r :=
  (if_neg (Nat.not_lt.mpr hfits)).trans (if_neg fun ⟨hs, hshort⟩ => Nat.not_lt.mpr (hlong hs) hshort)

/-- Every line has no tag, is an orphan, or is a frame to be decided by its text (R128 to R132). -/
theorem line_cases (rawOffset : Nat) (line : Bytes) :
    (line.take 2 ≠ [0x06#8, 0x09#8] ∧ line.take 2 ≠ [0x04#8, 0x14#8]) ∨
    (line.take 2 = tagBytes false ∧ rawOffset = 0) ∨
    ∃ start, line.take 2 = tagBytes start ∧ (start = false → rawOffset ≠ 0) := by
  by_cases hs : line.take 2 = [0x06#8, 0x09#8]
  · exact .inr (.inr ⟨true, hs, by simp⟩)
  by_cases hc : line.take 2 = [0x04#8, 0x14#8]
  · by_cases h0 : rawOffset = 0
    · exact .inr (.inl ⟨hc, h0⟩)
    · exact .inr (.inr ⟨false, hc, fun _ => h0⟩)
  · exact .inl ⟨hs, hc⟩

/-- A discarded line is not reported as a completion (R141). -/
theorem ne_complete_of_discard {rawCap rawOffset : Nat} {line : Bytes} {e : GhostEvent}
    (hv : lineVerdict rawCap rawOffset line = .discard e) : e ≠ .complete := by
  rintro rfl
  obtain ⟨hs, hc⟩ | ⟨ht, rfl⟩ | ⟨start, ht, ho⟩ := line_cases rawOffset line
  · simp [lineVerdict_of_noTag hs hc] at hv
  · simp [lineVerdict_of_orphan ht] at hv
  · cases hd : b64Dec (line.drop 2) with
    | none => simp [lineVerdict_of_badB64 ht ho hd] at hv
    | some r =>
      rw [lineVerdict_of_frame ht ho hd, frameVerdict] at hv
      split_ifs at hv <;> cases hv

/-- The malformed lines of R187 are discarded: what is accepted has a tag, a text and bytes that fit. -/
theorem exists_discard_of_malformed {rawCap rawOffset : Nat} {line : Bytes} (h : Malformed rawCap rawOffset line) :
    ∃ e, lineVerdict rawCap rawOffset line = .discard e := by
  cases hv : lineVerdict rawCap rawOffset line with
  | discard e => exact ⟨e, rfl⟩
  | accept start base r =>
    obtain ⟨hb, lb, text, rfl, hd, hfits, htag⟩ := lineVerdict_eq_accept hv
    obtain ⟨hstart, hcont⟩ := be16_eq_tag hb lb
    obtain ⟨-, ht, rfl, hlong⟩ | ⟨-, ht, rfl, hprogress⟩ := htag
    · rw [Nat.zero_add] at hfits
      have hshort : r.length < 2 := by simpa [Malformed, hstart.mp ht, hd, hfits.not_gt] using h
      omega
    · simp [Malformed, hcont.mp ht, hd, hfits.not_gt, hprogress] at h

/-! ### A discarded line (R130, R131, R133, R134, R136) -/

theorem lineDiscarded_eq_closeWindow (s : State) (e : GhostEvent) :
    lineDiscarded s e = (scratchOverflow s).closeWindow.finishRx e Response.okNone := by
  simp [lineDiscarded, State.closeWindow, State.finishRx, State.respondRx]

theorem execRxFeed_of_discard {s : State} {line : Bytes} {e : GhostEvent} (h : Inv s) (hl : CurrentLine s line)
    (hv : lineVerdict s.cfg.rawCap (scratchOverflow s).rawOffset line = .discard e) :
    execRxFeed newline s = .next (lineDiscarded s e) := by
  have hv' : lineVerdict (scratchOverflow s).closeWindow.cfg.rawCap (scratchOverflow s).closeWindow.rawOffset line =
      .discard e := by simpa using hv
  rw [execRxFeed_closeWindow h hl, evalLine_discard hv', lineDiscarded_eq_closeWindow]

/-- Settles O17: the verdict names the first defect, clause by clause. -/
theorem discardedLineIsNamedByItsFirstDefect : Obligations.DiscardedLineIsNamedByItsFirstDefect := by
  intro s line h hl
  refine ⟨fun ⟨hs, hc⟩ => ?_, fun ⟨ht, h0⟩ => ?_, fun htag hd => ?_, fun r hd hcap => ?_, fun r hd ht hfits hshort => ?_⟩ <;>
    refine execRxFeed_of_discard h hl ?_
  · exact lineVerdict_of_noTag hs hc
  · rw [h0]
    exact lineVerdict_of_orphan ht
  · obtain ht | ⟨ht, ho⟩ := htag
    · exact lineVerdict_of_badB64 (start := true) ht (by simp) hd
    · exact lineVerdict_of_badB64 (start := false) ht (fun _ => ho) hd
  · obtain ⟨ht, hover⟩ | ⟨ht, ho, hover⟩ := hcap
    · rw [lineVerdict_of_frame (start := true) ht (by simp) hd]
      exact frameVerdict_of_cap (by simpa using hover)
    · rw [lineVerdict_of_frame (start := false) ht (fun _ => ho) hd]
      exact frameVerdict_of_cap hover
  · rw [lineVerdict_of_frame (start := true) ht (by simp) hd]
    exact frameVerdict_of_short (by simpa using hfits) hshort

end Sys2Proof
end

section
/-!
PROOFS. What one RX_FEED does (42_rx_decoder.md R122 to R143): what the completion test judges, what RX_FEED answers, and
what it stores, each read off from one case analysis, `execRxFeed_stores`.
-/

namespace Sys2Proof

open Machine

/-! ### What the completion test judges (R137 to R140) -/

/-- The completion test keeps the bytes and the declared length; the number of bytes and their CRC decide the rest. -/
theorem completePacket_judges {s t : State} (h : completePacket s = .next t) :
    t.encodedLen = s.encodedLen ∧ t.rawBuf = s.rawBuf ∧ t.declaredBodyLen = s.declaredBodyLen ∧
      ((s.rawOffset < s.expectedTotal ∧ t.rawOffset = s.rawOffset ∧ t.ev = .more ∧
          t.rxResponses = s.rxResponses ++ [Response.okNone]) ∨
       (s.expectedTotal < s.rawOffset ∧ t.rawOffset = 0 ∧ t.ev = .overlen ∧
          t.rxResponses = s.rxResponses ++ [Response.okNone]) ∨
       (s.rawOffset = s.expectedTotal ∧ t.rawOffset = 0 ∧
          ∃ span, s.rawBuf.readBytes 2 (s.declaredBodyLen.toNat + 2) = some span ∧
            ((crc16 span ≠ 0#16 ∧ t.ev = .crc ∧ t.rxResponses = s.rxResponses ++ [Response.okNone]) ∨
             (crc16 span = 0#16 ∧ t.ev = .complete ∧
                t.rxResponses = s.rxResponses ++
                  [{ status := .packet, payload := .data (span.take s.declaredBodyLen.toNat) }])))) := by
  obtain ⟨hmore, rfl⟩ | ⟨hover, rfl⟩ | ⟨htot, span, hspan, hcrc⟩ := completePacket_next h
  · exact ⟨rfl, rfl, rfl, .inl ⟨hmore, rfl, rfl, rfl⟩⟩
  · exact ⟨rfl, rfl, rfl, .inr (.inl ⟨hover, rfl, rfl, rfl⟩)⟩
  have hspanLen : s.rawOffset - 2 = s.declaredBodyLen.toNat + 2 := by rw [htot, State.expectedTotal]; omega
  have hbodyLen : s.rawOffset - 4 = s.declaredBodyLen.toNat := by rw [htot, State.expectedTotal]; omega
  rw [hspanLen] at hspan
  obtain ⟨hbad, rfl⟩ | ⟨hgood, body, hbody, rfl⟩ := hcrc
  · exact ⟨rfl, rfl, rfl, .inr (.inr ⟨htot, rfl, span, hspan, .inl ⟨hbad, rfl, rfl⟩⟩)⟩
  · have htake := Memory.readBytes_drop_take _ _ _ 0 s.declaredBodyLen.toNat _ hspan (by omega)
    rw [hbodyLen] at hbody
    obtain rfl : body = span.take s.declaredBodyLen.toNat := Option.some.inj (hbody.symm.trans htake)
    exact ⟨rfl, rfl, rfl, .inr (.inr ⟨htot, rfl, span, hspan, .inr ⟨hgood, rfl, rfl⟩⟩)⟩

/-- Settles O18: the frame's verdict is to accept it, its bytes are committed, and the completion test judges the total. -/
theorem acceptedFrameIsCommittedAndJudged : Obligations.AcceptedFrameIsCommittedAndJudged := by
  intro s line r start base h hl ht hbase ho hd hlong hfits
  have hv : lineVerdict s.cfg.rawCap (scratchOverflow s).rawOffset line = .accept start base r := by
    have ho' : start = false → (scratchOverflow s).rawOffset ≠ 0 := by
      rintro rfl
      simpa [hbase] using ho rfl
    rw [lineVerdict_of_frame ht ho' hd, ← hbase]
    exact frameVerdict_of_fits hfits hlong
  have hc : commitFrame start base r (scratchOverflow s).closeWindow =
      .ok ((scratchOverflow s).closeWindow.committed start base r) :=
    commitFrame_eq_ok.mpr ⟨by simpa using hfits, rfl⟩
  obtain ⟨t, hnext, -⟩ := h.execRxFeed_keeps newline
  have hjudged : completePacket ((scratchOverflow s).closeWindow.committed start base r) = .next t := by
    rw [← hnext, execRxFeed_closeWindow h hl]
    exact (evalLine_accepted (by simpa using hv) hc).symm
  have hdeclared : ((scratchOverflow s).closeWindow.committed start base r).declaredBodyLen =
      if start then be16 (r.getD 0 0#8) (r.getD 1 0#8) else s.declaredBodyLen := by
    cases start with
    | true => exact declaredAfter_start _ (hlong rfl)
    | false => exact scratchOverflow_declaredBodyLen s
  obtain ⟨hlen, hbuf, hdecl, hcases⟩ := completePacket_judges hjudged
  have hresponses : ((scratchOverflow s).closeWindow.committed start base r).rxResponses = s.rxResponses :=
    scratchOverflow_rxResponses s
  rw [State.expectedTotal, ← hdecl, ← hbuf, hresponses] at hcases
  refine ⟨t, hnext, hlen, ?_, hdecl.trans hdeclared, hcases⟩
  simp [hbuf, State.committed]

/-! ### What RX_FEED answers and stores -/

/-- Evaluating a line discards it, or commits its frame and makes the completion test. -/
theorem evalLine_next {line : Bytes} {s t : State} (h : evalLine line s = .next t) :
    (∃ e, lineVerdict s.cfg.rawCap s.rawOffset line = .discard e ∧ t = s.finishRx e Response.okNone) ∨
    ∃ start base r, lineVerdict s.cfg.rawCap s.rawOffset line = .accept start base r ∧
      completePacket (s.committed start base r) = .next t := by
  cases hv : lineVerdict s.cfg.rawCap s.rawOffset line with
  | discard e =>
    rw [evalLine_discard hv] at h
    cases h
    exact .inl ⟨e, rfl, rfl⟩
  | accept start base r =>
    obtain ⟨_, _, _, -, -, hfits, -⟩ := lineVerdict_eq_accept hv
    rw [evalLine_accepted hv (commitFrame_eq_ok.mpr ⟨hfits, rfl⟩)] at h
    exact .inr ⟨start, base, r, rfl, h⟩

/-- A fed byte is stored and answered, or it is the newline of a line, which is evaluated. -/
theorem execRxFeed_stores {b : Byte} {s t : State} (h : execRxFeed b s = .next t) :
    (b ≠ newline ∧ t = ((scratchOverflow s).storeByte b).finishRx .accum Response.okNone) ∨
    (b = newline ∧ ∃ line, feedVerdict b s = some (lineVerdict s.cfg.rawCap (scratchOverflow s).rawOffset line) ∧
      evalLine line (scratchOverflow s).closeWindow = .next t) := by
  obtain ⟨s', hs, ⟨hb, rfl⟩ | ⟨rfl, line, hline, -⟩⟩ := execRxFeed_next h
  · obtain ⟨-, rfl⟩ := scratchAppend_eq_ok.mp hs
    exact .inl ⟨hb, rfl⟩
  · rw [execRxFeed_ended hs hline] at h
    have hverdict : feedVerdict newline s = some (lineVerdict s'.cfg.rawCap s'.rawOffset line) := by
      simp [feedVerdict, hs, bufRead_eq_ok.mpr hline]
    obtain ⟨-, rfl⟩ := scratchAppend_eq_ok.mp hs
    exact .inr ⟨rfl, line, by simpa using hverdict, h⟩

/-- What RX_FEED answers (R137 to R141): a packet only at its completion, whose body then has the declared length. -/
theorem execRxFeed_answers {b : Byte} {s t : State} (h : execRxFeed b s = .next t) :
    (t.ev ≠ .complete ∧ t.rxResponses = s.rxResponses ++ [Response.okNone]) ∨
    (t.ev = .complete ∧ ∃ body, t.rxResponses = s.rxResponses ++ [{ status := .packet, payload := .data body }] ∧
      body.length = t.declaredBodyLen.toNat ∧ body.length + 4 ≤ t.cfg.rawCap) := by
  obtain ⟨-, rfl⟩ | ⟨rfl, line, -, hline⟩ := execRxFeed_stores h
  · exact .inl (by simp)
  obtain ⟨e, hv, rfl⟩ | ⟨start, base, r, hv, hcomplete⟩ := evalLine_next hline
  · exact .inl ⟨ne_complete_of_discard hv, by simp⟩
  obtain ⟨_, _, _, -, -, hfits, -⟩ := lineVerdict_eq_accept hv
  have hkept : ((scratchOverflow s).closeWindow.committed start base r).rxResponses = s.rxResponses :=
    scratchOverflow_rxResponses s
  obtain ⟨-, -, hdecl, hcases⟩ := completePacket_judges hcomplete
  rw [hkept] at hcases
  obtain ⟨-, -, hev, hr⟩ | ⟨-, -, hev, hr⟩ | ⟨htot, -, span, hspan, ⟨-, hev, hr⟩ | ⟨-, hev, hr⟩⟩ := hcases
  · exact .inl ⟨by simp [hev], hr⟩
  · exact .inl ⟨by simp [hev], hr⟩
  · exact .inl ⟨by simp [hev], hr⟩
  · have hspanLen := Memory.readBytes_length _ _ _ _ hspan
    have hbodyLen : (span.take t.declaredBodyLen.toNat).length = t.declaredBodyLen.toNat := by
      rw [List.length_take, hdecl]
      omega
    have hcap : t.declaredBodyLen.toNat + 4 ≤ t.cfg.rawCap := by
      rw [hdecl, (txSideKept_completePacket hcomplete).cfg]
      exact htot.symm.trans_le hfits
    exact .inr ⟨hev, _, hdecl ▸ hr, hbodyLen, hbodyLen.symm ▸ hcap⟩

/-- Settles O21: the answer at completion and at every other outcome. -/
theorem onlyCompletionIsReported : Obligations.OnlyCompletionIsReported := by
  intro s t b h
  obtain hother | ⟨hev, body, hr, -⟩ := execRxFeed_answers h
  · exact .inl hother
  · exact .inr ⟨hev, body, hr⟩

/-- Settles O22: a packet is answered only at completion, and its body is the one answered there. -/
theorem deliveredPacketHasTheDeclaredLength : Obligations.DeliveredPacketHasTheDeclaredLength := by
  intro s t b body h hdelivered
  obtain ⟨-, hr⟩ | ⟨-, body', hr, hlen⟩ := execRxFeed_answers h
  · cases List.append_cancel_left (hr.symm.trans hdelivered)
  · cases List.append_cancel_left (hr.symm.trans hdelivered)
    exact hlen

/-- Settles O15: a stored byte stays in the window, and the newline's line is evaluated with the window emptied. -/
theorem amongFedBytesOnlyNewlineEmptiesTheWindow : Obligations.AmongFedBytesOnlyNewlineEmptiesTheWindow := by
  intro s t b h
  obtain ⟨hb, rfl⟩ | ⟨rfl, line, -, hline⟩ := execRxFeed_stores h
  · exact iff_of_false (by simp) hb
  · obtain ⟨hlen, -⟩ := evalLine_frame hline
    exact iff_of_true hlen rfl

/-- RX_FEED stores its byte at the end of the window (R124). -/
theorem execRxFeed_encBuf {b : Byte} {s t : State} (h : execRxFeed b s = .next t) :
    t.encBuf = s.encBuf.write (scratchIndex s) b := by
  obtain ⟨-, rfl⟩ | ⟨rfl, line, -, hline⟩ := execRxFeed_stores h
  · simp
  · obtain ⟨-, hbuf, -⟩ := evalLine_frame hline
    simp [hbuf]

/-- RX_FEED leaves `raw_buf` alone or commits the frame of its verdict (R134). -/
theorem execRxFeed_rawBuf {b : Byte} {s t : State} (h : execRxFeed b s = .next t) :
    t.rawBuf = s.rawBuf ∨
      ∃ start base r, feedVerdict b s = some (.accept start base r) ∧ t.rawBuf = s.rawBuf.writeBytes base r := by
  obtain ⟨-, rfl⟩ | ⟨rfl, line, hverdict, hline⟩ := execRxFeed_stores h
  · exact .inl (scratchOverflow_rawBuf s)
  obtain ⟨e, -, rfl⟩ | ⟨start, base, r, hv, hcomplete⟩ := evalLine_next hline
  · exact .inl (scratchOverflow_rawBuf s)
  · obtain ⟨-, hbuf, -⟩ := completePacket_judges hcomplete
    have hv' : lineVerdict s.cfg.rawCap (scratchOverflow s).rawOffset line = .accept start base r := by
      simpa using hv
    exact .inr ⟨start, base, r, hverdict.trans (congrArg some hv'), by simp [hbuf, State.committed]⟩

theorem execRxFeed_rxIn {b : Byte} {s t : State} (h : execRxFeed b s = .next t) : t.rxIn = s.rxIn := by
  obtain ⟨-, rfl⟩ | ⟨rfl, line, -, hline⟩ := execRxFeed_stores h
  · exact scratchOverflow_rxIn s
  · obtain ⟨-, -, -, hin, -⟩ := evalLine_frame hline
    exact hin.trans (scratchOverflow_rxIn s)

/-- Settles O19: one byte of `enc_buf`, a committed frame's bytes of `raw_buf`, and the other side kept. -/
theorem rxFeedFrame : Obligations.RxFeedFrame := by
  intro s t b h
  have hkept := txSideKept_execRxFeed h
  refine ⟨fun a ha => ?_, ?_, fun a ha => ?_, hkept.cfg, execRxFeed_rxIn h, hkept.txIn, hkept.txWork,
    hkept.txResponses, hkept.sinkOffers, hkept.sinkAnswers, hkept.script⟩
  · rw [execRxFeed_encBuf h, Memory.read?_write_other _ _ ha]
  · rw [execRxFeed_encBuf h, Memory.read?_write_same]
  · obtain hbuf | ⟨start, base, r, hv, hbuf⟩ := execRxFeed_rawBuf h
    · rw [hbuf]
    · rw [hbuf]
      exact Memory.read?_writeBytes_outside r _ base a fun hin => ha ⟨start, base, r, hv, hin⟩

/-- Settles O13: the command's one outcome. -/
theorem rxResetClearsTheContext : Obligations.RxResetClearsTheContext := exec_rxReset

/-- Settles O14: there is always room for the byte, in a full window after the overflow rule. -/
theorem ordinaryByteIsStored : Obligations.OrdinaryByteIsStored := by
  intro s b hb hcfg hlen
  rw [exec_rxFeed, execRxFeed_stored (scratchAppend_scratchOverflow hcfg hlen b) hb]
  split_ifs with hfull
  · rw [scratchOverflow_full hfull]
    rfl
  · rw [scratchOverflow_room hfull]
    rfl

end Sys2Proof
end

section
/-!
PROOFS. RX_FEED refines the decoder over plain lists (42_rx_decoder.md R122), part by part: the overflow rule, the stored
byte, the completion test, a frame, a line; then runs of it, and the worked example (R150) run on the lists.
-/

namespace Sys2Proof

open Machine

/-- A result is a next state whose Receive Context and one response are those of `o`. -/
def Answers (s : State) (r : Result) (o : RxView × Response) : Prop :=
  ∃ t, r = .next t ∧ Views t o.1 ∧ t.rxResponses = s.rxResponses ++ [o.2]

/-! ### The window (R123, R124) -/

theorem Views.stream_eq {s : State} {v : RxView} (hv : Views s v) :
    s.rawBuf.readBytes 0 s.rawOffset = some v.stream := hv.1

theorem Views.line_eq {s : State} {v : RxView} (hv : Views s v) :
    s.encBuf.readBytes 0 s.encodedLen = some v.line := hv.2.1

theorem Views.declared_eq {s : State} {v : RxView} (hv : Views s v) : s.declaredBodyLen = v.declared := hv.2.2

theorem Views.stream_length {s : State} {v : RxView} (hv : Views s v) : v.stream.length = s.rawOffset :=
  Memory.readBytes_length _ _ _ _ hv.stream_eq

theorem Views.line_length {s : State} {v : RxView} (hv : Views s v) : v.line.length = s.encodedLen :=
  Memory.readBytes_length _ _ _ _ hv.line_eq

/-- The view does not read the ports, the responses, the ghosts or the script. -/
theorem Views.congr {s t : State} {v : RxView} (hv : Views s v) (hk : ContextKept s t) : Views t v := by
  rw [Views, hk.rawBuf, hk.rawOffset, hk.encBuf, hk.encodedLen, hk.declaredBodyLen]
  exact hv

theorem Views.finishRx {s : State} {v : RxView} (hv : Views s v) (e : GhostEvent) (r : Response) :
    Views (s.finishRx e r) v :=
  hv.congr ⟨rfl, rfl, rfl, rfl, rfl, rfl⟩

theorem Views.endPacket {s : State} {v : RxView} (hv : Views s v) : Views s.endPacket { v with stream := [] } :=
  ⟨rfl, hv.line_eq, hv.declared_eq⟩

theorem Views.overflowed {s : State} {v : RxView} (hv : Views s v) :
    Views (scratchOverflow s) (v.overflowed s.cfg.encCap) := by
  by_cases hfull : s.encodedLen = s.cfg.encCap
  · rw [scratchOverflow_full hfull, RxView.overflowed, if_pos (hv.line_length.trans hfull)]
    exact ⟨rfl, rfl, hv.declared_eq⟩
  · rw [scratchOverflow_room hfull, RxView.overflowed, if_neg (hv.line_length ▸ hfull)]
    exact hv.congr ⟨rfl, rfl, rfl, rfl, rfl, rfl⟩

theorem Views.storeByte {s : State} {v : RxView} (hv : Views s v) (b : Byte) :
    Views (s.storeByte b) { v with line := v.line ++ [b] } :=
  ⟨hv.stream_eq, readBytes_append b hv.line_eq, hv.declared_eq⟩

theorem Views.closeWindow {s : State} {v : RxView} (hv : Views s v) : Views s.closeWindow { v with line := [] } :=
  ⟨hv.stream_eq, rfl, hv.declared_eq⟩

/-! ### The completion test (R137 to R140) -/

/-- The completion test on the decoded stream as a list. -/
def RxView.judged (v : RxView) : RxView × Response :=
  if v.stream.length < v.declared.toNat + 4 then (v, Response.okNone)
  else if v.stream.length = v.declared.toNat + 4 ∧ crc16 (v.stream.drop 2) = 0#16 then
    ({ v with stream := [] }, { status := .packet, payload := .data ((v.stream.drop 2).take v.declared.toNat) })
  else ({ v with stream := [] }, Response.okNone)

theorem answers_completed {s : State} {v : RxView} (hv : Views s v) :
    Answers s (.next (s.completed v.stream)) v.judged := by
  have hdropped (e : GhostEvent) (r : Response) : Views (s.endPacket.finishRx e r) { v with stream := [] } :=
    hv.endPacket.finishRx e r
  refine ⟨_, rfl, ?_⟩
  unfold State.completed RxView.judged State.expectedTotal
  rw [hv.stream_length, hv.declared_eq]
  by_cases hmore : s.rawOffset < v.declared.toNat + 4
  · rw [if_pos hmore, if_pos hmore]
    exact ⟨hv.finishRx _ _, rfl⟩
  rw [if_neg hmore, if_neg hmore]
  by_cases hover : v.declared.toNat + 4 < s.rawOffset
  · rw [if_pos hover, if_neg fun ⟨htot, _⟩ => hover.ne' htot]
    exact ⟨hdropped _ _, rfl⟩
  have htot : s.rawOffset = v.declared.toNat + 4 := by omega
  rw [if_neg hover]
  by_cases hcrc : crc16 (v.stream.drop 2) = 0#16
  · rw [if_neg (not_not.mpr hcrc), if_pos ⟨htot, hcrc⟩, htot, Nat.add_sub_cancel]
    exact ⟨hdropped _ _, rfl⟩
  · rw [if_pos hcrc, if_neg fun ⟨_, h⟩ => hcrc h]
    exact ⟨hdropped _ _, rfl⟩

/-! ### A frame (R132 to R136) -/

/-- The list decoder after an accepted frame, before the completion test. -/
def RxView.committed (v : RxView) (start : Bool) (r : Bytes) : RxView :=
  { v with
    stream := if start then r else v.stream ++ r
    declared := if start then be16 (r.getD 0 0#8) (r.getD 1 0#8) else v.declared }

/-- Where a frame's bytes go (R132, R134). -/
def RxView.base (v : RxView) (start : Bool) : Nat := if start then 0 else v.stream.length

theorem RxView.committed_length (v : RxView) (start : Bool) (r : Bytes) :
    (v.committed start r).stream.length = v.base start + r.length := by
  cases start <;> simp [RxView.committed, RxView.base]

theorem RxView.frame_eq (v : RxView) (rawCap : Nat) (start : Bool) (r : Bytes) :
    v.frame rawCap start r =
      if rawCap < v.base start + r.length then (v, Response.okNone)
      else if start = true ∧ r.length < 2 then (v, Response.okNone)
      else (v.committed start r).judged := by
  rw [← RxView.committed_length]
  rfl

theorem Views.committed {s : State} {v : RxView} (hv : Views s v) {start : Bool} {r : Bytes}
    (hlong : start = true → 2 ≤ r.length) :
    Views (s.committed start (v.base start) r) (v.committed start r) := by
  cases start with
  | true => exact ⟨readBytes_commit r (kept := []) rfl, hv.line_eq, declaredAfter_start _ (hlong rfl)⟩
  | false =>
    have hkept : s.rawBuf.readBytes 0 v.stream.length = some v.stream := by rw [hv.stream_length, hv.stream_eq]
    exact ⟨readBytes_commit r hkept, hv.line_eq, hv.declared_eq⟩

theorem answers_discard {s : State} {v : RxView} {line : Bytes} {e : GhostEvent} (hv : Views s v)
    (hd : lineVerdict s.cfg.rawCap s.rawOffset line = .discard e) :
    Answers s (Machine.evalLine line s) (v, Response.okNone) :=
  ⟨_, evalLine_discard hd, hv.finishRx _ _, rfl⟩

theorem answers_frame {s : State} {v : RxView} {line r : Bytes} {start : Bool} (hv : Views s v)
    (hverdict : lineVerdict s.cfg.rawCap s.rawOffset line = frameVerdict s.cfg.rawCap start (v.base start) r) :
    Answers s (Machine.evalLine line s) (v.frame s.cfg.rawCap start r) := by
  rw [RxView.frame_eq]
  by_cases hcap : s.cfg.rawCap < v.base start + r.length
  · rw [if_pos hcap]
    exact answers_discard hv (hverdict.trans (frameVerdict_of_cap hcap))
  have hfits := Nat.not_lt.mp hcap
  rw [if_neg hcap]
  by_cases hshort : start = true ∧ r.length < 2
  · rw [if_pos hshort]
    obtain ⟨rfl, hlen⟩ := hshort
    exact answers_discard hv (hverdict.trans (frameVerdict_of_short hfits hlen))
  have hlong : start = true → 2 ≤ r.length := fun hs => Nat.not_lt.mp fun hlt => hshort ⟨hs, hlt⟩
  have hcommitted := hv.committed hlong
  rw [if_neg hshort, evalLine_accepted (hverdict.trans (frameVerdict_of_fits hfits hlong))
    (commitFrame_eq_ok.mpr ⟨hfits, rfl⟩)]
  exact (completePacket_of_stream hcommitted.stream_eq).symm ▸ answers_completed hcommitted

/-! ### A line (R128 to R133) -/

theorem RxView.evalLine_of_noTag {v : RxView} {rawCap : Nat} {line : Bytes} (hs : line.take 2 ≠ [0x06#8, 0x09#8])
    (hc : line.take 2 ≠ [0x04#8, 0x14#8]) : v.evalLine rawCap line = (v, Response.okNone) := if_pos ⟨hs, hc⟩

theorem RxView.evalLine_of_orphan {v : RxView} {rawCap : Nat} {line : Bytes} (ht : line.take 2 = tagBytes false)
    (h0 : v.stream = []) : v.evalLine rawCap line = (v, Response.okNone) := by
  simp [RxView.evalLine, ht, tagBytes, h0]

theorem RxView.evalLine_of_tag {v : RxView} {rawCap : Nat} {line : Bytes} {start : Bool}
    (ht : line.take 2 = tagBytes start) (ho : start = false → v.stream ≠ []) :
    v.evalLine rawCap line = (b64Dec (line.drop 2)).elim (v, Response.okNone) (v.frame rawCap start) := by
  cases start with
  | true => cases hdec : b64Dec (line.drop 2) <;> simp [RxView.evalLine, ht, tagBytes, hdec]
  | false => cases hdec : b64Dec (line.drop 2) <;> simp [RxView.evalLine, ht, tagBytes, hdec, ho]

theorem answers_evalLine {s : State} {v : RxView} (hv : Views s v) (line : Bytes) :
    Answers s (Machine.evalLine line s) (v.evalLine s.cfg.rawCap line) := by
  have hempty : v.stream = [] ↔ s.rawOffset = 0 := by rw [← hv.stream_length, List.length_eq_zero_iff]
  obtain ⟨hs, hc⟩ | ⟨ht, h0⟩ | ⟨start, ht, ho⟩ := line_cases s.rawOffset line
  · rw [RxView.evalLine_of_noTag hs hc]
    exact answers_discard hv (lineVerdict_of_noTag hs hc)
  · rw [RxView.evalLine_of_orphan ht (hempty.mpr h0)]
    exact answers_discard hv (h0 ▸ lineVerdict_of_orphan ht)
  · rw [RxView.evalLine_of_tag ht fun hs => mt hempty.mp (ho hs)]
    cases hd : b64Dec (line.drop 2) with
    | none => exact answers_discard hv (lineVerdict_of_badB64 ht ho hd)
    | some r =>
      refine answers_frame hv ?_
      rw [RxView.base, hv.stream_length]
      exact lineVerdict_of_frame ht ho hd

/-! ### One byte -/

theorem RxView.feed_newline (v : RxView) (p : BuildParams) :
    v.feed p newline =
      { v.overflowed p.encCap with line := [] }.evalLine p.rawCap (v.overflowed p.encCap).line := by
  simp [RxView.feed, newline]

theorem RxView.feed_ordinary {v : RxView} {p : BuildParams} {b : Byte} (hb : b ≠ newline) :
    v.feed p b = ({ v.overflowed p.encCap with line := (v.overflowed p.encCap).line ++ [b] }, Response.okNone) :=
  if_pos hb

/-- The byte is stored in the window of the view, or ends its line, which is evaluated. -/
theorem answers_execRxFeed {s : State} {v : RxView} (h : Inv s) (hv : Views s v) (b : Byte) :
    Answers s (execRxFeed b s) (v.feed s.cfg b) := by
  have hover := hv.overflowed
  by_cases hb : b = newline
  · obtain ⟨t, hnext, hview, hr⟩ := answers_evalLine hover.closeWindow (v.overflowed s.cfg.encCap).line
    rw [hb, RxView.feed_newline, execRxFeed_closeWindow h hover.line_eq]
    rw [State.closeWindow_cfg, scratchOverflow_cfg] at hview hr
    exact ⟨t, hnext, hview, by simpa using hr⟩
  · rw [RxView.feed_ordinary hb, execRxFeed_ordinary h hb]
    exact ⟨_, rfl, (hover.storeByte b).finishRx _ _, by simp⟩

/-- Settles O20: part by part, on the window, the line, the frame and the completion test. -/
theorem rxFeedRefinesTheListDecoder : Obligations.RxFeedRefinesTheListDecoder :=
  fun _ _ b h hv => answers_execRxFeed h hv b

/-! ### Many bytes (R149) -/

/-- The list decoder over many bytes: where it ends and its responses, oldest first. -/
def RxView.feedAll (p : BuildParams) : Bytes → RxView → RxView × List Response
  | [], v => (v, [])
  | b :: bs, v =>
    let (w, rs) := RxView.feedAll p bs (v.feed p b).1
    (w, (v.feed p b).2 :: rs)

/-- RX_FEED over many bytes refines the list decoder over them. -/
theorem feedAll_refines {s : State} {v : RxView} (h : Inv s) (hv : Views s v) (bs : Bytes) :
    ∃ t, feedAll bs s = .next t ∧ Views t (v.feedAll s.cfg bs).1 ∧
      t.rxResponses = s.rxResponses ++ (v.feedAll s.cfg bs).2 := by
  induction bs generalizing s v with
  | nil => exact ⟨s, rfl, hv, (List.append_nil _).symm⟩
  | cons b bs ih =>
    obtain ⟨u, hu, hview, hr⟩ := answers_execRxFeed h hv b
    have hinv : Inv u := by
      obtain ⟨u', hu', hinv⟩ := h.execRxFeed_keeps b
      cases hu.symm.trans hu'
      exact hinv
    obtain ⟨t, ht, hviewt, hrt⟩ := ih hinv hview
    rw [(txSideKept_execRxFeed hu).cfg] at hviewt hrt
    refine ⟨t, ?_, hviewt, ?_⟩
    · simp only [feedAll, exec_rxFeed, hu, ht]
    · rw [hrt, hr, List.append_assoc]
      rfl

/-! ### The worked example (R150, R180) -/

/-- The line of R180: its tag, the text of its stream, and the newline. -/
def workedFrame : Bytes :=
  [0x06#8, 0x09#8, 0x41#8, 0x41#8, 0x51#8, 0x42#8, 0x41#8, 0x67#8, 0x4D#8, 0x45#8, 0x44#8, 0x51#8, 0x4D#8, 0x3D#8, 0x0A#8]

/-- The list decoder, from an empty context, answers the packet at the last byte. -/
theorem feedAll_workedFrame :
    RxView.feedAll BuildParams.reference workedFrame { stream := [], line := [], declared := 0#16 } =
      ({ stream := [], line := [], declared := 4#16 },
        List.replicate 14 Response.okNone ++
          [{ status := .packet, payload := .data [0x01#8, 0x02#8, 0x03#8, 0x04#8] }]) := by
  decide +kernel

/-- Settles O24: the frame is computed from the body, and fed back it is run on the list decoder. -/
theorem workedExampleHolds : Obligations.WorkedExampleHolds := by
  refine ⟨by decide +kernel, by decide +kernel, by decide +kernel, ?_⟩
  have hreset : Views State.reset { stream := [], line := [], declared := 0#16 } := ⟨rfl, rfl, rfl⟩
  obtain ⟨t, hnext, hview, hr⟩ := feedAll_refines resetMeetsTheInvariant hreset workedFrame
  rw [show State.reset.cfg = BuildParams.reference from rfl, feedAll_workedFrame] at hview hr
  exact ⟨t, hnext, hview.stream_length.symm, hview.line_length.symm, hview.declared_eq, hr⟩

end Sys2Proof
end

section
/-!
PROOFS. A whole line fed byte by byte (42_rx_decoder.md R147): while the window has room its bytes are stored and answered
`ST_OK`, and a malformed line's newline then leaves the packet in progress as it was.
-/

namespace Sys2Proof

open Machine

/-- `t` is `s` after the bytes `bs` were stored in its window, each answered `ST_OK`, with the packet in progress kept. -/
structure BytesStored (s : State) (bs : Bytes) (t : State) : Prop where
  inv : Inv t
  cfg : t.cfg = s.cfg
  rawOffset : t.rawOffset = s.rawOffset
  rawBuf : t.rawBuf = s.rawBuf
  declaredBodyLen : t.declaredBodyLen = s.declaredBodyLen
  encodedLen : t.encodedLen = s.encodedLen + bs.length
  window : ∀ line, s.encBuf.readBytes 0 s.encodedLen = some line →
    t.encBuf.readBytes 0 t.encodedLen = some (line ++ bs)
  rxResponses : t.rxResponses = s.rxResponses ++ List.replicate bs.length Response.okNone

theorem BytesStored.nil {s : State} (h : Inv s) : BytesStored s [] s where
  inv := h
  cfg := rfl
  rawOffset := rfl
  rawBuf := rfl
  declaredBodyLen := rfl
  encodedLen := rfl
  window line hl := by rw [hl, List.append_nil]
  rxResponses := (List.append_nil _).symm

theorem BytesStored.cons {s t u : State} {b : Byte} {bs : Bytes} (h : BytesStored s [b] t) (h' : BytesStored t bs u) :
    BytesStored s (b :: bs) u where
  inv := h'.inv
  cfg := h'.cfg.trans h.cfg
  rawOffset := h'.rawOffset.trans h.rawOffset
  rawBuf := h'.rawBuf.trans h.rawBuf
  declaredBodyLen := h'.declaredBodyLen.trans h.declaredBodyLen
  encodedLen := by
    rw [h'.encodedLen, h.encodedLen, Nat.add_assoc, ← List.length_append]
    rfl
  window line hl := by
    rw [h'.window _ (h.window _ hl), List.append_assoc]
    rfl
  rxResponses := by
    rw [h'.rxResponses, h.rxResponses, List.append_assoc, ← List.replicate_add, Nat.add_comm]
    rfl

/-- A byte that is no newline, where the window has room. -/
theorem execRxFeed_room {s : State} {b : Byte} (h : Inv s) (hb : b ≠ newline) (hroom : s.encodedLen < s.cfg.encCap) :
    ∃ t, execRxFeed b s = .next t ∧ BytesStored s [b] t := by
  obtain ⟨t, hnext, hinv⟩ := h.execRxFeed_keeps b
  have hstored := execRxFeed_ordinary h hb
  rw [scratchOverflow_room hroom.ne, hnext] at hstored
  cases hstored
  exact ⟨_, hnext, hinv, rfl, rfl, rfl, rfl, rfl, fun line hl => readBytes_append b hl, rfl⟩

/-- The bytes of a line that fits the window. -/
theorem feedAll_room {s : State} {bs : Bytes} (h : Inv s) (hb : newline ∉ bs)
    (hroom : s.encodedLen + bs.length ≤ s.cfg.encCap) : ∃ t, feedAll bs s = .next t ∧ BytesStored s bs t := by
  induction bs generalizing s with
  | nil => exact ⟨s, rfl, .nil h⟩
  | cons b bs ih =>
    rw [List.length_cons] at hroom
    obtain ⟨hne, hrest⟩ := List.ne_and_not_mem_of_not_mem_cons hb
    obtain ⟨u, hu, hfirst⟩ := execRxFeed_room h hne.symm (by omega)
    have hroom' : u.encodedLen + bs.length ≤ u.cfg.encCap := by
      rw [hfirst.encodedLen, hfirst.cfg, List.length_singleton]
      omega
    obtain ⟨t, ht, hothers⟩ := ih hfirst.inv hrest hroom'
    exact ⟨t, by simp only [feedAll, exec_rxFeed, hu, ht], hfirst.cons hothers⟩

theorem feedAll_append {bs : Bytes} {s t : State} (h : feedAll bs s = .next t) (cs : Bytes) :
    feedAll (bs ++ cs) s = feedAll cs t := by
  induction bs generalizing s with
  | nil =>
    cases h
    rfl
  | cons b bs ih =>
    simp only [feedAll, List.cons_append] at h ⊢
    split at h
    · exact ih h
    · cases h
    · cases h

theorem feedAll_singleton {b : Byte} {s t : State} (h : execRxFeed b s = .next t) : feedAll [b] s = .next t := by
  simp only [feedAll, exec_rxFeed, h]

/-- Settles O23: the line is stored byte by byte, and its newline discards it. -/
theorem interleavedLineLeavesThePacket : Obligations.InterleavedLineLeavesThePacket := by
  intro s line h hempty hclean hroom hbad
  obtain ⟨t, ht, hline⟩ := feedAll_room h hclean (by omega)
  have hnotFull : t.encodedLen ≠ t.cfg.encCap := by
    rw [hline.encodedLen, hline.cfg]
    omega
  have hover := scratchOverflow_room hnotFull
  have hcurrent : CurrentLine t line := by
    rw [CurrentLine, hover]
    exact hline.window [] (by rw [hempty]; rfl)
  obtain ⟨e, hv⟩ := exists_discard_of_malformed hbad
  rw [← hline.cfg, ← hline.rawOffset] at hv
  have hdiscard : execRxFeed newline t = .next (lineDiscarded t e) :=
    execRxFeed_of_discard hline.inv hcurrent (by rw [hover]; exact hv)
  have hfed : feedAll (line ++ [newline]) s = .next (lineDiscarded t e) :=
    (feedAll_append ht _).trans (feedAll_singleton hdiscard)
  rw [lineDiscarded_eq_closeWindow, hover] at hfed
  refine ⟨_, hfed, hline.rawOffset, hline.rawBuf, hline.declaredBodyLen, rfl, ?_⟩
  rw [List.replicate_succ', ← List.append_assoc]
  exact congrArg (· ++ [Response.okNone]) hline.rxResponses

end Sys2Proof
end

section
/-!
PROOFS. The frame split (43_tx_encoder.md R168 to R170): the numbers of groups of the frames in closed form, `frameSizes`,
by induction on the groups before the CRC-bearing ones. With the groups in order this is the whole split.
-/

namespace Sys2Proof.Machine

/-! ### The numbers of groups -/

/-- How many groups each frame holds (R169, R170), at most `k`, where the last `c` of `g` groups bear the CRC: full frames and
the rest, but where one of two CRC-bearing groups would be alone in the final frame, the frame before gives it the other. -/
def frameSizes (k c g : Nat) : List Nat :=
  if c = 2 ∧ g % k = 1 then List.replicate ((g - 1) / k - 1) k ++ [k - 1, 2]
  else List.replicate ((g - 1) / k) k ++ [(g - 1) % k + 1]

theorem frameSizes_early {k c g : Nat} (h : c = 2 ∧ g % k = 1) :
    frameSizes k c g = List.replicate ((g - 1) / k - 1) k ++ [k - 1, 2] := if_pos h

theorem frameSizes_even {k c g : Nat} (h : ¬ (c = 2 ∧ g % k = 1)) :
    frameSizes k c g = List.replicate ((g - 1) / k) k ++ [(g - 1) % k + 1] := if_neg h

/-- A multiple of `k` and one more, that is not 1, has a full frame before the one. -/
theorem one_le_div_of_mod_eq_one {k g : Nat} (hk : 0 < k) (hg : 2 ≤ g) (hone : g % k = 1) : 1 ≤ (g - 1) / k :=
  Nat.div_pos (Nat.le_of_dvd (by omega) (hone ▸ Nat.dvd_sub_mod g)) hk

/-- Groups that fit one frame are one frame. -/
theorem frameSizes_of_le {k c g : Nat} (hk : 2 ≤ k) (hc : 1 ≤ c) (hcg : c ≤ g) (hg : g ≤ k) : frameSizes k c g = [g] := by
  have hnone : (g - 1) / k = 0 := Nat.div_eq_of_lt (by omega)
  have hnotEarly : ¬ (c = 2 ∧ g % k = 1) := by
    rintro ⟨rfl, hone⟩
    exact absurd (one_le_div_of_mod_eq_one (by omega) hcg hone) (by omega)
  rw [frameSizes_even hnotEarly, hnone, Nat.mod_eq_of_lt (by omega), Nat.sub_add_cancel (by omega)]
  rfl

/-- A full frame before the others. -/
theorem frameSizes_add {k c g : Nat} (hk : 2 ≤ k) (hc : 1 ≤ c) (hcg : c ≤ g) :
    frameSizes k c (k + g) = k :: frameSizes k c g := by
  have hrest : k + g - 1 = g - 1 + k := by omega
  by_cases h : c = 2 ∧ g % k = 1
  · have hfull := one_le_div_of_mod_eq_one (by omega) (by omega) h.2
    rw [frameSizes_early h, frameSizes_early (by rwa [Nat.add_mod_left]), hrest, Nat.add_div_right _ (by omega),
      Nat.sub_add_comm hfull, List.replicate_succ, List.cons_append]
  · rw [frameSizes_even h, frameSizes_even (by rwa [Nat.add_mod_left]), hrest, Nat.add_div_right _ (by omega),
      Nat.add_mod_right, List.replicate_succ, List.cons_append]

/-- Two CRC-bearing groups of which a full frame would hold one. -/
theorem frameSizes_of_early_close {k : Nat} (hk : 2 ≤ k) : frameSizes k 2 (k - 1 + 2) = [k - 1, 2] := by
  have hmod : (k - 1 + 2) % k = 1 := by
    rw [show k - 1 + 2 = 1 + k by omega, Nat.add_mod_right, Nat.mod_eq_of_lt (by omega)]
  have hdiv : (k - 1 + 2 - 1) / k = 1 := by
    rw [show k - 1 + 2 - 1 = k by omega, Nat.div_self (by omega)]
  rw [frameSizes_early ⟨rfl, hmod⟩, hdiv]
  rfl

theorem mem_frameSizes {k c g : Nat} (hk : 2 ≤ k) : ∀ x ∈ frameSizes k c g, 1 ≤ x ∧ x ≤ k := by
  have hlast : (g - 1) % k < k := Nat.mod_lt _ (by omega)
  intro x hx
  unfold frameSizes at hx
  split_ifs at hx <;> simp only [List.mem_append, List.mem_replicate, List.mem_cons, List.not_mem_nil, or_false] at hx <;>
    omega

/-- `ceil(g / k)` frames (R170). -/
theorem length_frameSizes {k c g : Nat} (hk : 2 ≤ k) (hg : 2 ≤ g) : (frameSizes k c g).length = (g + (k - 1)) / k := by
  rw [show g + (k - 1) = g - 1 + k by omega, Nat.add_div_right _ (by omega)]
  by_cases h : c = 2 ∧ g % k = 1
  · have := one_le_div_of_mod_eq_one (by omega) hg h.2
    rw [frameSizes_early h, List.length_append, List.length_replicate]
    simp only [List.length_cons, List.length_nil]
    omega
  · rw [frameSizes_even h, List.length_append, List.length_replicate]
    rfl

/-- The final frame holds the CRC-bearing groups (R168). -/
theorem exists_last_frameSizes {k c g : Nat} (hk : 2 ≤ k) (hc2 : c ≤ 2) (hg : 1 ≤ g) :
    ∃ first last, frameSizes k c g = first ++ [last] ∧ c ≤ last := by
  by_cases h : c = 2 ∧ g % k = 1
  · exact ⟨List.replicate ((g - 1) / k - 1) k ++ [k - 1], 2, by rw [frameSizes_early h]; simp, hc2⟩
  · refine ⟨_, _, frameSizes_even h, ?_⟩
    obtain hzero | hpos := Nat.eq_zero_or_pos ((g - 1) % k)
    · have hone : g % k = 1 := by
        rw [show g = g - 1 + 1 by omega, Nat.add_mod, hzero, Nat.zero_add, Nat.mod_mod, Nat.mod_eq_of_lt hk]
      have hc : c ≠ 2 := fun hc => h ⟨hc, hone⟩
      omega
    · omega

/-- The frames before the final one are full, but for the one closed early (R169). -/
theorem getElem?_frameSizes {k c g j : Nat} (hj : j + 1 < (frameSizes k c g).length) :
    (frameSizes k c g)[j]? =
      some (if c = 2 ∧ g % k = 1 ∧ j + 2 = (frameSizes k c g).length then k - 1 else k) := by
  by_cases h : c = 2 ∧ g % k = 1
  · rw [frameSizes_early h] at hj ⊢
    simp only [List.length_append, List.length_replicate, List.length_cons, List.length_nil] at hj ⊢
    by_cases hfull : j < (g - 1) / k - 1
    · rw [List.getElem?_append_left (by simpa using hfull), List.getElem?_replicate, if_pos hfull, if_neg (by omega)]
    · obtain rfl : j = (g - 1) / k - 1 := by omega
      rw [if_pos ⟨h.1, h.2, rfl⟩]
      simp
  · rw [if_neg fun ⟨h1, h2, _⟩ => h ⟨h1, h2⟩]
    rw [frameSizes_even h] at hj ⊢
    have hfull : j < (g - 1) / k := by simpa using hj
    rw [List.getElem?_append_left (by simpa using hfull), List.getElem?_replicate, if_pos hfull]

/-! ### The loop -/

/-- After the first CRC-bearing group, groups that fit the open frame go there. -/
theorem splitLoop_of_fits {k g t : Nat} : ∀ (m i : Nat) (cur : List Nat), t < i → cur.length + m ≤ k →
    splitLoop k g t m i cur = [cur ++ List.range' i m]
  | 0, _, _, _, _ => by simp [splitLoop]
  | m + 1, i, cur, hi, hfits => by
    have hopen : ¬ closesFrame k g t cur i := by
      rintro (hfull | ⟨rfl, -⟩) <;> omega
    rw [splitLoop, if_neg hopen, splitLoop_of_fits m (i + 1) _ (by omega) (by simp; omega), List.range'_succ]
    simp

/-- At the first of the `c` CRC-bearing groups: they join the open frame where they fit, else they are a frame (R168, R169). -/
theorem splitLoop_at_crc {k t c : Nat} {cur : List Nat} (hc : 1 ≤ c) (hck : c ≤ k) (_ : cur.length ≤ k) :
    splitLoop k (t + c) t c t cur =
      if k < cur.length + c then [cur, List.range' t c] else [cur ++ List.range' t c] := by
  obtain ⟨m, rfl⟩ := Nat.exists_eq_add_of_le' hc
  have hcloses : closesFrame k (t + (m + 1)) t cur t ↔ k < cur.length + (m + 1) := by
    rw [closesFrame, Nat.add_sub_cancel_left]
    omega
  rw [splitLoop, List.range'_succ]
  split_ifs with hclose hover hover
  · rw [splitLoop_of_fits m _ _ (by omega) (by simp; omega)]
    rfl
  · exact absurd (hcloses.mp hclose) hover
  · exact absurd (hcloses.mpr hover) hclose
  · rw [splitLoop_of_fits m _ _ (by omega) (by simp; omega), List.append_assoc]
    rfl

/-- The loop over `d` groups before the `c` CRC-bearing ones, and these. -/
theorem map_length_splitLoop {k c t : Nat} (hk : 2 ≤ k) (hc : 1 ≤ c) (hc2 : c ≤ 2) : ∀ (d i : Nat) (cur : List Nat),
    t = i + d → 1 ≤ cur.length → cur.length ≤ k →
    (splitLoop k (t + c) t (d + c) i cur).map List.length = frameSizes k c (cur.length + (d + c))
  | 0, i, cur, ht, hpos, hcur => by
    obtain rfl : t = i := ht
    rw [Nat.zero_add, splitLoop_at_crc hc (by omega) hcur]
    split_ifs with hover
    · obtain hfull | hearly : cur.length = k ∨ (cur.length = k - 1 ∧ c = 2) := by omega
      · rw [hfull, frameSizes_add hk hc le_rfl, frameSizes_of_le hk hc le_rfl (by omega)]
        simp [hfull]
      · obtain ⟨hlen, rfl⟩ := hearly
        rw [hlen, frameSizes_of_early_close hk]
        simp [hlen]
    · rw [frameSizes_of_le hk hc (by omega) (by omega)]
      simp
  | d + 1, i, cur, ht, hpos, hcur => by
    have hnotCrc : i ≠ t := by omega
    rw [Nat.add_right_comm, splitLoop]
    by_cases hfull : cur.length = k
    · rw [if_pos (.inl hfull), List.map_cons,
        map_length_splitLoop hk hc hc2 d (i + 1) [i] (by omega) (by simp) (by simp; omega), hfull,
        frameSizes_add hk hc (by omega), List.length_singleton, Nat.add_comm 1]
    · rw [if_neg (by rintro (h | ⟨h, -⟩) <;> contradiction),
        map_length_splitLoop hk hc hc2 d (i + 1) _ (by omega) (by simp) (by simp; omega)]
      simp only [List.length_append, List.length_singleton]
      congr 1
      omega

/-! ### The split -/

/-- How many groups bear the CRC (R168): two where the body's length is a multiple of 3, else one. -/
def crcGroupCount (n : Nat) : Nat := if n % 3 = 0 then 2 else 1

theorem crcGroupCount_mem (n : Nat) : 1 ≤ crcGroupCount n ∧ crcGroupCount n ≤ 2 := by
  unfold crcGroupCount
  split_ifs <;> decide

theorem crcGroupCount_eq_two {n : Nat} : crcGroupCount n = 2 ↔ n % 3 = 0 := by
  unfold crcGroupCount
  split_ifs with h <;> simp [h]

/-- The CRC-bearing groups are the last ones (R168). -/
theorem groupCount_eq (n : Nat) : groupCount n = firstCrcGroup n + crcGroupCount n := by
  unfold groupCount firstCrcGroup crcGroupCount
  split_ifs <;> omega

theorem two_le_groupCount (n : Nat) : 2 ≤ groupCount n := by
  unfold groupCount
  omega

theorem splitGroups_zero {k : Nat} (hk : 2 ≤ k) : splitGroups k 0 = [[0, 1]] :=
  splitLoop_of_fits 1 1 [0] (by decide) hk

/-- The closed form of the split's numbers. -/
theorem map_length_splitGroups {k : Nat} (hk : 2 ≤ k) (n : Nat) :
    (splitGroups k n).map List.length = frameSizes k (crcGroupCount n) (groupCount n) := by
  have hbear := groupCount_eq n
  obtain ⟨hc, hc2⟩ := crcGroupCount_mem n
  by_cases h0 : n = 0
  · subst h0
    rw [splitGroups_zero hk]
    exact (frameSizes_of_le hk (by decide) (by decide) hk).symm
  · obtain ⟨d, hd⟩ : ∃ d, firstCrcGroup n = 1 + d := Nat.exists_eq_add_of_le (by unfold firstCrcGroup; omega)
    have hloop := map_length_splitLoop hk hc hc2 d 1 [0] hd (by simp) (by simp; omega)
    rw [← hbear] at hloop
    have hrest : groupCount n - 1 = d + crcGroupCount n := by omega
    rw [splitGroups, hrest, hloop, List.length_singleton, ← hrest]
    congr 1
    omega

/-- The split keeps the groups and their order (R169). -/
theorem splitGroups_flatten (k n : Nat) : (splitGroups k n).flatten = List.range (groupCount n) := by
  have := two_le_groupCount n
  rw [splitGroups, splitLoop_flatten, List.range_eq_range']
  obtain ⟨m, hm⟩ := Nat.exists_eq_add_of_le' (show 1 ≤ groupCount n by omega)
  rw [hm, List.range'_succ]
  rfl

/-- A frame's groups are consecutive: those after the frames before it. -/
theorem eq_range'_of_flatten {first rest : List (List Nat)} {gs : List Nat} {i m : Nat}
    (h : (first ++ gs :: rest).flatten = List.range' i m) :
    gs = List.range' (i + first.flatten.length) gs.length := by
  rw [List.flatten_append, List.flatten_cons, eq_comm, List.range'_eq_append_iff] at h
  obtain ⟨a, -, hfirst, htail⟩ := h
  rw [eq_comm, List.range'_eq_append_iff] at htail
  obtain ⟨b, -, hgs, -⟩ := htail
  rw [hfirst, List.length_range', hgs, List.length_range', Nat.mul_one]

/-- A frame holds 1 to `k` groups (R169). -/
theorem length_of_mem_splitGroups {k n : Nat} (hk : 2 ≤ k) {gs : List Nat} (h : gs ∈ splitGroups k n) :
    1 ≤ gs.length ∧ gs.length ≤ k :=
  mem_frameSizes hk _ (map_length_splitGroups hk n ▸ List.mem_map_of_mem h)

/-- Settles O45: the final frame is the last groups, and by `frameSizes` as many as bear the CRC. -/
theorem crcGroupsShareTheFinalFrame : Obligations.CrcGroupsShareTheFinalFrame := by
  intro k n hk
  refine ⟨splitGroups_flatten k n, fun gs hgs => ?_, ?_⟩
  · obtain ⟨hpos, hle⟩ := length_of_mem_splitGroups hk hgs
    exact ⟨List.ne_nil_of_length_pos hpos, hle⟩
  have hbear := groupCount_eq n
  obtain ⟨-, hc2⟩ := crcGroupCount_mem n
  have htwo := two_le_groupCount n
  obtain ⟨sizes, last, hsizes, hlast⟩ := exists_last_frameSizes (k := k) (c := crcGroupCount n)
    (g := groupCount n) hk hc2 (by omega)
  rw [← map_length_splitGroups hk, List.map_eq_append_iff] at hsizes
  obtain ⟨first, finals, hsplit, -, hfinals⟩ := hsizes
  obtain ⟨final, rfl, hlen⟩ := List.map_eq_singleton_iff.mp hfinals
  have hflat := splitGroups_flatten k n
  rw [hsplit, List.range_eq_range'] at hflat
  have hfinal := eq_range'_of_flatten hflat
  have hcount : first.flatten.length + final.length = groupCount n := by simpa using congrArg List.length hflat
  refine ⟨first, final, hsplit, fun i hi hi' => ?_⟩
  change firstCrcGroup n ≤ i at hi
  change i < groupCount n at hi'
  rw [hfinal, List.mem_range'_1]
  omega

/-- Settles O59: read off the closed form. -/
theorem framesBeforeTheFinalOneAreFull : Obligations.FramesBeforeTheFinalOneAreFull := by
  intro k n j gs hk hgs hj
  have hsizes := map_length_splitGroups hk n
  have hlength : (frameSizes k (crcGroupCount n) (groupCount n)).length = (splitGroups k n).length := by
    rw [← hsizes, List.length_map]
  have hget := getElem?_frameSizes (hlength.symm ▸ hj)
  rw [hlength, ← hsizes, List.getElem?_map, hgs] at hget
  simpa [crcGroupCount_eq_two, groupCount] using hget

end Sys2Proof.Machine
end

section
/-!
PROOFS. The frames of a packet as lines (43_tx_encoder.md R164 to R172): consecutive groups, each encoded on its own, are the
encoding of their bytes, so a frame's text decodes to its part of the stream; lengths and characters of the text follow.
-/

namespace Sys2Proof.Machine

/-! ### Groups and their text (R161, R166) -/

theorem length_decodedStream (data : Bytes) : (decodedStream data).length = data.length + 4 := by
  simp [decodedStream, beBytes]

/-- Consecutive groups, each encoded on its own, are the encoding of their bytes: only the stream's last group can be short. -/
theorem frameText_range' (stream : Bytes) : ∀ m a : Nat,
    frameText stream (List.range' a m) = b64Enc true ((stream.drop (3 * a)).take (3 * m))
  | 0, _ => rfl
  | m + 1, a => by
    have hnext : (stream.drop (3 * a)).drop 3 = stream.drop (3 * (a + 1)) := by
      rw [List.drop_drop, Nat.mul_add]
    have hsplit : (stream.drop (3 * a)).take (3 * (m + 1)) =
        group stream a ++ (stream.drop (3 * (a + 1))).take (3 * m) := by
      rw [Nat.mul_add, Nat.add_comm, List.take_add, hnext, group]
    have hcons : frameText stream (List.range' a (m + 1)) =
        b64Enc true (group stream a) ++ b64Enc true ((stream.drop (3 * (a + 1))).take (3 * m)) := by
      rw [← frameText_range' stream m (a + 1), List.range'_succ]
      rfl
    rw [hcons, hsplit]
    by_cases hwhole : 3 ≤ (stream.drop (3 * a)).length
    · exact (b64Enc_append_of_three (by simpa [group] using hwhole) _).symm
    · have hrest : stream.drop (3 * (a + 1)) = [] := by
        rw [← hnext, List.drop_eq_nil_of_le (by omega)]
      rw [hrest, List.take_nil, List.append_nil]
      exact List.append_nil _

theorem length_group {stream : Bytes} {i : Nat} (hi : 3 * i < stream.length) :
    1 ≤ (group stream i).length ∧ (group stream i).length ≤ 3 := by
  rw [group, List.length_take, List.length_drop]
  omega

/-- Every group of the stream is four characters. -/
theorem length_frameText {stream : Bytes} {gs : List Nat} (h : ∀ i ∈ gs, 3 * i < stream.length) :
    (frameText stream gs).length = 4 * gs.length := by
  induction gs with
  | nil => rfl
  | cons i gs ih =>
    obtain ⟨hi, hrest⟩ := List.forall_mem_cons.mp h
    obtain ⟨hpos, hle⟩ := length_group hi
    have hcons : frameText stream (i :: gs) = b64Enc true (group stream i) ++ frameText stream gs := rfl
    rw [hcons, List.length_append, ih hrest, length_b64Enc_true, List.length_cons]
    omega

/-- The newline is no character of an encoding (30_encoding.md R63). -/
theorem newline_not_mem_b64Enc (d : Bytes) : newline ∉ b64Enc true d := by
  rw [b64Enc_true_eq, List.mem_append, List.mem_replicate]
  rintro (halphabet | ⟨-, hpad⟩)
  · exact (strictBase64_b64Enc d).alphabet newline halphabet b64Val_newline
  · exact absurd hpad (by decide)

theorem newline_not_mem_frameText (stream : Bytes) (gs : List Nat) : newline ∉ frameText stream gs := by
  simp [frameText, newline_not_mem_b64Enc]

/-! ### The frames -/

/-- The groups of a packet's frames are groups of its stream. -/
theorem lt_length_of_mem_splitGroups {k : Nat} {data : Bytes} {gs : List Nat} (hgs : gs ∈ splitGroups k data.length) :
    ∀ i ∈ gs, 3 * i < (decodedStream data).length := by
  intro i hi
  have hmem : i ∈ List.range (groupCount data.length) :=
    splitGroups_flatten k data.length ▸ List.mem_flatten_of_mem hgs hi
  rw [List.mem_range, groupCount] at hmem
  rw [length_decodedStream]
  omega

theorem getElem?_packetFrames (k : Nat) (data : Bytes) (j : Nat) :
    (packetFrames k data)[j]? = (splitGroups k data.length)[j]?.map (frameBytes (decodedStream data) j) := by
  rw [packetFrames, framesFrom_getElem?, Nat.zero_add]

theorem length_packetFrames (k : Nat) (data : Bytes) :
    (packetFrames k data).length = (splitGroups k data.length).length := framesFrom_length ..

/-- The tag of a frame as bytes: the packet-start tag for the first frame alone (R164, R165). -/
theorem frameTag_eq (j : Nat) : frameTag j = if j = 0 then [0x06#8, 0x09#8] else [0x04#8, 0x14#8] := by
  unfold frameTag
  split_ifs <;> rfl

theorem length_frameTag (j : Nat) : (frameTag j).length = 2 := rfl

theorem length_frameBytes {k : Nat} {data : Bytes} {gs : List Nat} (hgs : gs ∈ splitGroups k data.length) (j : Nat) :
    (frameBytes (decodedStream data) j gs).length = 2 + 4 * gs.length + 1 := by
  rw [frameBytes, List.length_append, List.length_append, length_frameTag, length_frameText (lt_length_of_mem_splitGroups hgs),
    List.length_singleton]

/-! ### The statements -/

/-- Settles O42: the frames' groups are all groups in order, so their texts are the text of the whole stream. -/
theorem frameTextsAreTheEncodedStream : Obligations.FrameTextsAreTheEncodedStream := by
  intro k data hk hfits
  constructor
  · have hjoin : ((splitGroups k data.length).map (frameText (decodedStream data))).flatten =
        frameText (decodedStream data) (splitGroups k data.length).flatten := by
      simp only [frameText, List.flatten_eq_flatMap, List.flatMap_assoc, List.flatMap_map, id]
    have hwhole : (decodedStream data).length ≤ 3 * groupCount data.length := by
      rw [length_decodedStream, groupCount]
      omega
    rw [hjoin, splitGroups_flatten, List.range_eq_range', frameText_range', Nat.mul_zero, List.drop_zero,
      List.take_of_length_le hwhole]
  · intro gs hgs
    rw [length_frameText (lt_length_of_mem_splitGroups hgs), Nat.mul_mod_right]

/-- Settles O43: the frame is built so (R172), and no character of an encoding is the newline. -/
theorem framesAreTaggedLines : Obligations.FramesAreTaggedLines := by
  intro k data j f hk hf
  rw [getElem?_packetFrames, Option.map_eq_some_iff] at hf
  obtain ⟨gs, hgs, rfl⟩ := hf
  exact ⟨gs, _, hgs, rfl, by rw [frameBytes, frameTag_eq]; rfl, newline_not_mem_frameText _ gs⟩

/-- Settles O44: the number of frames is that of `frameSizes`, and a frame's length that of its groups. -/
theorem frameCountAndLengths : Obligations.FrameCountAndLengths := by
  intro k data hk hk31 hfits
  constructor
  · rw [length_packetFrames, ← List.length_map List.length, map_length_splitGroups hk,
      length_frameSizes hk (two_le_groupCount _), groupCount]
  · intro f hf
    obtain ⟨j, hj⟩ := List.mem_iff_getElem?.mp hf
    rw [getElem?_packetFrames, Option.map_eq_some_iff] at hj
    obtain ⟨gs, hgs, rfl⟩ := hj
    have hmem := List.mem_of_getElem? hgs
    obtain ⟨hpos, hle⟩ := length_of_mem_splitGroups hk hmem
    rw [length_frameBytes hmem, maxFrame]
    omega

/-- Settles O46: both groups of the four bytes are in one frame, which is then computed. -/
theorem emptyBodyIsOneFrame : Obligations.EmptyBodyIsOneFrame := by
  intro k hk
  rw [packetFrames, List.length_nil, splitGroups_zero hk]
  decide

end Sys2Proof.Machine
end

section
/-!
PROOFS. The `Send` loop of TX_PACKET (43_tx_encoder.md R174 to R176): every state it passes through is `State.sending` for a
frame and a phase, each turn of the engine is one lemma about it, and the runs are inductions over the sink's answers. The
command's own step is the turn of such a state too, the one that offers frame 0.
-/

namespace Sys2Proof.Machine

/-! ### The states of the loop -/

/-- How many frames have been offered where frame `j` is next to send: it itself is, unless the engine is about to offer it. -/
def TxPhase.offered : TxPhase → Nat → Nat
  | .offering, j => j
  | .waiting, j => j + 1
  | .failed _, j => j + 1

/-- TX_PACKET of `data`, begun in `s`, at frame `j` in phase `p`, with the sink's answers `answers` to come. -/
def State.sending (s : State) (data : Bytes) (j : Nat) (p : TxPhase) (answers : List SendAnswer) : State :=
  { s with
    txWork := some { txLoad s.cfg.frameGroups data with next := j, phase := p }
    sinkOffers := s.sinkOffers ++ (packetFrames s.cfg.frameGroups data).take (p.offered j)
    sinkAnswers := answers }

/-- TX_PACKET of `data`, begun in `s`, after its response `r`, with `n` frames offered. -/
def State.sent (s : State) (data : Bytes) (n : Nat) (answers : List SendAnswer) (r : Response) : State :=
  { s with
    sinkOffers := s.sinkOffers ++ (packetFrames s.cfg.frameGroups data).take n
    sinkAnswers := answers
    txResponses := s.txResponses ++ [r] }

theorem frame_txLoad (k : Nat) (data : Bytes) (j : Nat) (p : TxPhase) :
    TxWork.frame { txLoad k data with next := j, phase := p } = (packetFrames k data)[j]? := by
  rw [getElem?_packetFrames]
  unfold TxWork.frame
  dsimp only [txLoad]
  cases (splitGroups k data.length)[j]? <;> rfl

theorem packetFrames_ne_nil (k : Nat) (data : Bytes) : packetFrames k data ≠ [] := by
  rw [← List.length_pos_iff, length_packetFrames, List.length_pos_iff]
  exact splitLoop_ne_nil _ _ _ _ _ _

/-- A step reads nothing of the working set that it replaces. -/
theorem receiveAnswer_replacesWork (s : State) (w : TxWork) (old : Option TxWork) :
    { s with txWork := old }.receiveAnswer w = s.receiveAnswer w := by
  unfold State.receiveAnswer
  cases s.sinkAnswers <;> rfl

theorem txAdvance_replacesWork (s : State) (w : TxWork) (old : Option TxWork) :
    { s with txWork := old }.txAdvance w = s.txAdvance w := by
  unfold State.txAdvance
  cases w.phase with
  | failed e => rfl
  | waiting => exact receiveAnswer_replacesWork s w old
  | offering =>
    cases w.frame with
    | none => rfl
    | some f => exact receiveAnswer_replacesWork { s with sinkOffers := s.sinkOffers ++ [f] } w old

section Turns

variable (s : State) (data : Bytes)

/-! ### One turn -/

/-- The command's step is the turn of a state about to offer frame 0 (log entry 12). -/
theorem exec_txPacket : exec (.txPacket data) s = txTurn (s.sending data 0 .offering s.sinkAnswers) := by
  have hstart : s.sending data 0 .offering s.sinkAnswers =
      { s with txWork := some (txLoad s.cfg.frameGroups data) } := by
    simp [State.sending, TxPhase.offered, txLoad]
  rw [hstart, txTurn_inProgress rfl, txAdvance_replacesWork]
  rfl

/-- The state after the answer to frame `j`. -/
def State.answeredAt (j : Nat) (a : SendAnswer) (answers : List SendAnswer) : State :=
  match a with
  | .ok => s.sending data (j + 1) .offering answers
  | .err e => s.sending data j (.failed e) answers

/-- The engine is at frame `j` of the packet and makes its `Send`, or awaits the answer. -/
structure State.SendsAt (j : Nat) (p : TxPhase) : Prop where
  lt : j < (packetFrames s.cfg.frameGroups data).length
  phase : p = .offering ∨ p = .waiting

variable {s data} {j : Nat} {p : TxPhase} {answers : List SendAnswer}

/-- A turn at frame `j` offers it, unless it stands offered, and asks for the answer (R174). -/
theorem txTurn_sending (h : s.SendsAt data j p) :
    txTurn (s.sending data j p answers) =
      .next ((s.sending data j .waiting answers).receiveAnswer
        { txLoad s.cfg.frameGroups data with next := j, phase := p }) := by
  rw [txTurn_inProgress rfl]
  obtain ⟨hlt, rfl | rfl⟩ := h
  · have hoffers : (packetFrames s.cfg.frameGroups data).take (j + 1) =
        (packetFrames s.cfg.frameGroups data).take j ++ [(packetFrames s.cfg.frameGroups data)[j]] :=
      List.take_succ_eq_append_getElem hlt
    have hframe := (frame_txLoad s.cfg.frameGroups data j .offering).trans (List.getElem?_eq_getElem hlt)
    rw [← receiveAnswer_replacesWork (s.sending data j .waiting answers) _
      (s.sending data j .offering answers).txWork]
    simp only [State.txAdvance, hframe, State.sending, TxPhase.offered, hoffers, List.append_assoc]
  · rfl

theorem txTurn_unanswered (h : s.SendsAt data j p) :
    txTurn (s.sending data j p []) = .next (s.sending data j .waiting []) := by
  rw [txTurn_sending h, receiveAnswer_none rfl]
  rfl

theorem txTurn_answered (h : s.SendsAt data j p) (a : SendAnswer) :
    txTurn (s.sending data j p (a :: answers)) = .next (s.answeredAt data j a answers) := by
  rw [txTurn_sending h, receiveAnswer_some rfl]
  cases a <;> rfl

/-- The response ends the command; nothing but the TX side's ports shows that it was there. -/
theorem endTxPacket_sending (hq : Quiescent s) (r : Response) :
    (s.sending data j p answers).endTxPacket r = s.sent data (p.offered j) answers r := by
  rw [State.sent, hq]
  rfl

/-- After the last frame the turn gives `ST_OK` (R176). -/
theorem txTurn_allSent (hq : Quiescent s) (hj : j = (packetFrames s.cfg.frameGroups data).length) :
    txTurn (s.sending data j .offering answers) = .next (s.sent data j answers Response.okNone) := by
  have hframe := frame_txLoad s.cfg.frameGroups data j .offering
  rw [List.getElem?_eq_none hj.ge] at hframe
  rw [txTurn_inProgress rfl, State.txAdvance]
  simp only [hframe]
  rw [endTxPacket_sending hq]
  rfl

/-- After an error the turn gives `ST_ERR_SEND` (R175). -/
theorem txTurn_failed (hq : Quiescent s) (e : SinkErr) :
    txTurn (s.sending data j (.failed e) answers) =
      .next (s.sent data (j + 1) answers { status := .errSend, payload := .sinkErr e }) :=
  congrArg _ (endTxPacket_sending hq _)

/-! ### Many turns -/

theorem txTurns_succ {s t : State} (h : txTurn s = .next t) (n : Nat) : txTurns (n + 1) s = txTurns n t := by
  rw [txTurns, h]

theorem txTurns_one (s : State) : txTurns 1 s = txTurn s := by
  obtain ⟨t, ht⟩ := exists_txTurn_eq_next s
  rw [txTurns_succ ht, ht]
  rfl

/-- Where the answers to `m` frames are `Ok`, as many turns lead to the frame after them, and one more to its answer. -/
theorem txTurns_answered (a : SendAnswer) (n : Nat) : ∀ m j : Nat,
    j + m < (packetFrames s.cfg.frameGroups data).length →
    txTurns (m + 1 + n) (s.sending data j .offering (List.replicate m .ok ++ a :: answers)) =
      txTurns n (s.answeredAt data (j + m) a answers)
  | 0, j, h => by
    rw [Nat.zero_add, Nat.add_comm 1]
    exact txTurns_succ (txTurn_answered ⟨h, .inl rfl⟩ a) n
  | m + 1, j, h => by
    have hsends : s.SendsAt data j .offering := ⟨by omega, .inl rfl⟩
    rw [Nat.add_right_comm, List.replicate_succ, List.cons_append, txTurns_succ (txTurn_answered hsends .ok),
      Nat.add_comm m 1, ← Nat.add_assoc, Nat.add_comm 1 m]
    exact txTurns_answered a n m (j + 1) (by omega)

/-- The engine waits while no answer comes (R219). -/
theorem txTurns_unanswered : ∀ (n : Nat) {p : TxPhase}, s.SendsAt data j p →
    ∃ q, s.SendsAt data j q ∧ txTurns n (s.sending data j p []) = .next (s.sending data j q [])
  | 0, p, h => ⟨p, h, rfl⟩
  | n + 1, _, h => by
    rw [txTurns_succ (txTurn_unanswered h)]
    exact txTurns_unanswered n ⟨h.lt, .inr rfl⟩

/-- A late answer, whenever it comes (R174). -/
theorem lateSend_answered (h : s.SendsAt data j p) (wait : Nat) (a : SendAnswer) :
    lateSend wait a (s.sending data j p []) = .next (s.answeredAt data j a []) := by
  obtain ⟨q, hq, hwaited⟩ := txTurns_unanswered wait h
  have hanswer : step ((s.sending data j q []).withMove (.answer a)) = .next (s.sending data j q [a]) :=
    step_script_cons (s := (s.sending data j q []).withMove (.answer a)) rfl
  simp only [lateSend, hwaited, hanswer, txTurn_answered hq]

theorem lateSends_cons {s t : State} {wait : Nat} {a : SendAnswer} (h : lateSend wait a s = .next t)
    (rest : List (Nat × SendAnswer)) : lateSends ((wait, a) :: rest) s = lateSends rest t := by
  rw [lateSends, h]

/-- Late answers that are `Ok`, and one more. -/
theorem lateSends_answered (last : Nat) (a : SendAnswer) : ∀ (waits : List Nat) (j : Nat) {p : TxPhase},
    s.SendsAt data j p → j + waits.length < (packetFrames s.cfg.frameGroups data).length →
    lateSends ((waits.map fun n => (n, .ok)) ++ [(last, a)]) (s.sending data j p []) =
      .next (s.answeredAt data (j + waits.length) a [])
  | [], _, _, h, _ => lateSends_cons (lateSend_answered h last a) []
  | wait :: waits, j, _, h, hlt => by
    rw [List.length_cons] at hlt ⊢
    rw [List.map_cons, List.cons_append, lateSends_cons (lateSend_answered h wait .ok), Nat.add_comm waits.length,
      ← Nat.add_assoc]
    exact lateSends_answered last a waits (j + 1) ⟨by omega, .inl rfl⟩ (by omega)

/-! ### The command -/

theorem packetFrames_pos (k : Nat) (data : Bytes) : 0 < (packetFrames k data).length :=
  List.length_pos_of_ne_nil (packetFrames_ne_nil k data)

/-- The command and the turns after it, where the answers to `m` frames are `Ok` and one more comes. -/
theorem exec_txPacket_answered {m : Nat} {a : SendAnswer} (hm : m < (packetFrames s.cfg.frameGroups data).length)
    (h : s.sinkAnswers = List.replicate m .ok ++ a :: answers) :
    ∃ t, exec (.txPacket data) s = .next t ∧ txTurns (m + 1) t = txTurn (s.answeredAt data m a answers) := by
  obtain ⟨t, ht⟩ := exists_txTurn_eq_next (s.sending data 0 .offering s.sinkAnswers)
  refine ⟨t, (exec_txPacket s data).trans ht, ?_⟩
  have hturns := txTurns_answered (s := s) (data := data) (answers := answers) a 1 m 0 (by omega)
  rw [← h, txTurns_succ ht, txTurns_one, Nat.zero_add] at hturns
  exact hturns

/-- The command and late answers, `Ok` and one more. -/
theorem exec_txPacket_lateSends (hnone : s.sinkAnswers = []) {waits : List Nat} (last : Nat) (a : SendAnswer)
    (hlt : waits.length < (packetFrames s.cfg.frameGroups data).length) :
    ∃ t, exec (.txPacket data) s = .next t ∧
      lateSends ((waits.map fun n => (n, .ok)) ++ [(last, a)]) t = .next (s.answeredAt data waits.length a []) := by
  have hfirst : s.SendsAt data 0 .offering := ⟨packetFrames_pos _ _, .inl rfl⟩
  refine ⟨_, ?_, (lateSends_answered last a waits 0 ⟨hfirst.lt, .inr rfl⟩ (by omega)).trans (by rw [Nat.zero_add])⟩
  rw [exec_txPacket, hnone, txTurn_unanswered hfirst]

end Turns

/-- Settles O39: the command's step is the turn that offers frame 0. -/
theorem txPacketMakesItsFirstSend : Obligations.TxPacketMakesItsFirstSend := by
  intro s data hfits hq
  have hsends : s.SendsAt data 0 .offering := ⟨packetFrames_pos _ _, .inl rfl⟩
  obtain ⟨f, rest, hframes⟩ := List.exists_cons_of_ne_nil (packetFrames_ne_nil s.cfg.frameGroups data)
  have hone : (packetFrames s.cfg.frameGroups data).take 1 = [f] := by rw [hframes]; rfl
  refine ⟨f, by rw [hframes]; rfl, ?_⟩
  rw [exec_txPacket, ← hone]
  match s.sinkAnswers with
  | [] => exact txTurn_unanswered hsends
  | .ok :: _ => exact txTurn_answered hsends .ok
  | .err e :: _ => exact txTurn_answered hsends (.err e)

/-- Settles O40: the turns lead to the last answer, and one more gives the response. -/
theorem txPacketRunsToItsResponse : Obligations.TxPacketRunsToItsResponse := by
  intro s data later hfits hq
  constructor
  · intro hanswers
    obtain ⟨m, hm⟩ := Nat.exists_eq_add_one.mpr (packetFrames_pos s.cfg.frameGroups data)
    rw [hm, List.replicate_succ', List.append_assoc] at hanswers
    obtain ⟨t, ht, hturns⟩ := exec_txPacket_answered (m.lt_add_one.trans_eq hm.symm) hanswers
    refine ⟨t, ht, ?_⟩
    rw [hm, hturns, State.answeredAt, txTurn_allSent hq hm.symm, State.sent, List.take_of_length_le hm.le]
    rfl
  · intro j e hj hanswers
    obtain ⟨t, ht, hturns⟩ := exec_txPacket_answered hj hanswers
    exact ⟨t, ht, hturns.trans (txTurn_failed hq e)⟩

/-- Settles O58: the late answers lead to the last one, and the turn after it gives the response. -/
theorem lateAnswersRunTxPacketToItsResponse : Obligations.LateAnswersRunTxPacketToItsResponse := by
  intro s data waits hfits hq hnone
  constructor
  · intro hlen
    have hpos := packetFrames_pos s.cfg.frameGroups data
    obtain ⟨ws, last, rfl⟩ := (List.eq_nil_or_concat' waits).resolve_left (List.ne_nil_of_length_pos (by omega))
    rw [List.length_append, List.length_singleton] at hlen
    obtain ⟨t, ht, hsends⟩ := exec_txPacket_lateSends hnone last .ok (ws.length.lt_add_one.trans_eq hlen)
    refine ⟨t, _, ht, by rw [List.map_append]; exact hsends, ?_⟩
    rw [State.answeredAt, txTurn_allSent hq hlen, State.sent, List.take_of_length_le hlen.ge, ← hnone]
    rfl
  · intro last e hlt
    obtain ⟨t, ht, hsends⟩ := exec_txPacket_lateSends hnone last (.err e) hlt
    refine ⟨t, _, ht, hsends, ?_⟩
    rw [State.answeredAt, txTurn_failed hq e, State.sent, ← hnone]

end Sys2Proof.Machine
end

section
/-!
PROOFS. The round trip (43_tx_encoder.md R179), on the list decoder that RX_FEED refines: a frame fed where a line begins is
decoded to its part of the stream, so after the frames of the first `a` groups the decoder holds `packetView data a`; the frame
with the last group completes the packet, whose CRC is right by R89.
-/

namespace Sys2Proof

open Machine

/-! ### Lines fed to the list decoder -/

theorem RxView.feedAll_append (p : BuildParams) (xs ys : Bytes) (v : RxView) :
    v.feedAll p (xs ++ ys) =
      (((v.feedAll p xs).1.feedAll p ys).1, (v.feedAll p xs).2 ++ ((v.feedAll p xs).1.feedAll p ys).2) := by
  induction xs generalizing v with
  | nil => rfl
  | cons b xs ih => simp only [List.cons_append, RxView.feedAll, ih]

theorem RxView.overflowed_room {v : RxView} {encCap : Nat} (h : v.line.length < encCap) : v.overflowed encCap = v :=
  if_neg h.ne

/-- Bytes of a line that fits the window are stored (R124, R125). -/
theorem RxView.feedAll_room {p : BuildParams} {bs : Bytes} {v : RxView} (hb : newline ∉ bs)
    (hroom : v.line.length + bs.length ≤ p.encCap) :
    v.feedAll p bs = ({ v with line := v.line ++ bs }, List.replicate bs.length Response.okNone) := by
  induction bs generalizing v with
  | nil => rw [List.append_nil]; rfl
  | cons b bs ih =>
    rw [List.length_cons] at hroom
    obtain ⟨hne, hrest⟩ := List.ne_and_not_mem_of_not_mem_cons hb
    rw [RxView.feedAll, RxView.feed_ordinary hne.symm, RxView.overflowed_room (by omega),
      ih hrest (by simp only [List.length_append, List.length_singleton]; omega)]
    simp [List.replicate_succ]

/-- The answers to the bytes `bs` where the last one is answered `r` and every other `ST_OK`. -/
def okThen (bs : Bytes) (r : Response) : List Response := List.replicate (bs.length - 1) Response.okNone ++ [r]

theorem okThen_append {xs ys : Bytes} (hx : xs ≠ []) (hy : ys ≠ []) (r : Response) :
    okThen xs Response.okNone ++ okThen ys r = okThen (xs ++ ys) r := by
  have hxpos := List.length_pos_of_ne_nil hx
  have hypos := List.length_pos_of_ne_nil hy
  have hlen : (xs ++ ys).length - 1 = xs.length - 1 + 1 + (ys.length - 1) := by
    rw [List.length_append]
    omega
  rw [okThen, okThen, okThen, hlen, ← List.append_assoc, ← List.replicate_succ', ← List.replicate_add]

/-- A whole line, fed where a line begins, is answered `ST_OK` byte by byte and then evaluated (R126, R127). -/
theorem RxView.feedAll_line {p : BuildParams} {line : Bytes} {v : RxView} (hempty : v.line = []) (hline : newline ∉ line)
    (hroom : line.length < p.encCap) :
    v.feedAll p (line ++ [newline]) =
      ((v.evalLine p.rawCap line).1, okThen (line ++ [newline]) (v.evalLine p.rawCap line).2) := by
  have hstored := RxView.feedAll_room (p := p) (v := v) hline (by rw [hempty, List.length_nil]; omega)
  rw [hempty, List.nil_append] at hstored
  have hend : ({ v with line := line } : RxView).feed p newline = v.evalLine p.rawCap line := by
    rw [RxView.feed_newline, RxView.overflowed_room hroom, ← hempty]
  rw [RxView.feedAll_append, hstored, okThen, List.length_append, List.length_singleton, Nat.add_sub_cancel]
  simp only [RxView.feedAll, hend]

/-! ### A packet on the list decoder -/

/-- The list decoder after the first `a` groups of a packet. -/
def packetView (data : Bytes) (a : Nat) : RxView where
  stream := (decodedStream data).take (3 * a)
  line := []
  declared := u16OfNat data.length

/-- Where the list decoder stands when frame `j` comes, after `a` groups: anywhere with an empty window before the first frame,
which starts the packet anew (R132). -/
inductive AwaitsFrame (data : Bytes) : RxView → Nat → Nat → Prop
  | first {v : RxView} (hempty : v.line = []) : AwaitsFrame data v 0 0
  | next {j a : Nat} (hj : j ≠ 0) (ha : 0 < a) : AwaitsFrame data (packetView data a) j a

theorem AwaitsFrame.line_eq {data : Bytes} {v : RxView} {j a : Nat} (h : AwaitsFrame data v j a) : v.line = [] := by
  cases h with
  | first hempty => exact hempty
  | next => rfl

theorem packetView_length (data : Bytes) (a : Nat) : (packetView data a).stream.length = min (3 * a) (data.length + 4) := by
  rw [packetView, List.length_take, length_decodedStream]

/-- A part of the packet goes on (R137). -/
theorem judged_packetView_more {data : Bytes} {a : Nat} (hfits : PayloadFits data) (ha : 3 * a < data.length + 4) :
    (packetView data a).judged = (packetView data a, Response.okNone) := by
  refine if_pos ?_
  rw [packetView_length, packetView, u16OfNat_toNat hfits]
  omega

/-- The whole packet is delivered: the CRC of the body and its CRC is zero (R89, R139, R140). -/
theorem judged_packetView_whole {data : Bytes} {a : Nat} (hfits : PayloadFits data) (ha : data.length + 4 ≤ 3 * a) :
    (packetView data a).judged =
      ({ packetView data a with stream := [] }, { status := .packet, payload := .data data }) := by
  have hlen : (packetView data a).stream.length = data.length + 4 := by
    rw [packetView_length]
    omega
  have hdeclared : (packetView data a).declared.toNat = data.length := u16OfNat_toNat hfits
  have hbody : (packetView data a).stream.drop 2 = data ++ beBytes (crc16 data) := by
    rw [packetView, List.take_of_length_le (by rw [length_decodedStream]; exact ha)]
    rfl
  have hcrc : crc16 (data ++ beBytes (crc16 data)) = 0#16 := crcOfStringAndItsCrcIsZero data
  rw [RxView.judged, hlen, hdeclared, hbody, List.take_left, if_neg (Nat.lt_irrefl _), if_pos ⟨rfl, hcrc⟩]

/-- Frame `j`'s bytes are committed after those of the frames before it (R132, R134, R136). -/
theorem AwaitsFrame.committed_eq {data : Bytes} {v : RxView} {j a m : Nat} (h : AwaitsFrame data v j a) (hm : 1 ≤ m) :
    v.committed (decide (j = 0)) (((decodedStream data).drop (3 * a)).take (3 * m)) = packetView data (a + m) := by
  cases h with
  | first hempty =>
    have hlength : ∃ h l tail, ((decodedStream data).drop (3 * 0)).take (3 * m) = h :: l :: tail ∧
        be16 h l = u16OfNat data.length := by
      obtain ⟨m, rfl⟩ := Nat.exists_eq_add_of_le' hm
      exact ⟨_, _, _, rfl, be16_hi8_lo8 _⟩
    obtain ⟨h, l, tail, hbytes, hdeclared⟩ := hlength
    simp only [RxView.committed, packetView, decide_true, if_true, hempty, Nat.zero_add, RxView.mk.injEq, true_and]
    exact ⟨rfl, by rw [hbytes]; exact hdeclared⟩
  | next hj ha =>
    simp only [RxView.committed, packetView, decide_eq_false hj, Bool.false_eq_true, if_false, Nat.mul_add, List.take_add]

/-- Frame `j`'s line is accepted, and the completion test decides (R132 to R140). -/
theorem AwaitsFrame.evalLine_eq {data : Bytes} {v : RxView} {j a m rawCap : Nat} (h : AwaitsFrame data v j a) (hm : 1 ≤ m)
    (hcap : data.length + 4 ≤ rawCap) :
    v.evalLine rawCap (frameTag j ++ frameText (decodedStream data) (List.range' a m)) =
      (packetView data (a + m)).judged := by
  have htag : (frameTag j ++ frameText (decodedStream data) (List.range' a m)).take 2 = tagBytes (decide (j = 0)) := by
    rw [List.take_left' (length_frameTag j), frameTag_eq, tagBytes]
    simp
  have hstream : decide (j = 0) = false → v.stream ≠ [] := by
    intro hnext
    cases h with
    | first => cases hnext
    | next hj ha =>
      refine List.ne_nil_of_length_pos ?_
      rw [packetView_length]
      omega
  have hcommitted := h.committed_eq hm
  have hlength := RxView.committed_length v (decide (j = 0)) (((decodedStream data).drop (3 * a)).take (3 * m))
  rw [hcommitted, packetView_length] at hlength
  have hlong : ¬ (decide (j = 0) = true ∧ (((decodedStream data).drop (3 * a)).take (3 * m)).length < 2) := by
    rintro ⟨hfirst, hshort⟩
    rw [hfirst, RxView.base, if_pos rfl] at hlength
    omega
  rw [RxView.evalLine_of_tag htag hstream, List.drop_left' (length_frameTag j), frameText_range', b64Dec_b64Enc, Option.elim_some,
    RxView.frame_eq, if_neg (by omega), if_neg hlong, hcommitted]

/-- Frame `j`, fed byte by byte. -/
theorem AwaitsFrame.feedAll_eq {data : Bytes} {v : RxView} {j a m : Nat} {p : BuildParams} (h : AwaitsFrame data v j a)
    (hm : 1 ≤ m) (hcap : data.length + 4 ≤ p.rawCap)
    (hroom : (frameBytes (decodedStream data) j (List.range' a m)).length ≤ p.encCap) :
    v.feedAll p (frameBytes (decodedStream data) j (List.range' a m)) =
      ((packetView data (a + m)).judged.1,
        okThen (frameBytes (decodedStream data) j (List.range' a m)) (packetView data (a + m)).judged.2) := by
  have hclean : newline ∉ frameTag j ++ frameText (decodedStream data) (List.range' a m) := by
    rw [List.mem_append, not_or, frameTag_eq]
    exact ⟨by split_ifs <;> decide, newline_not_mem_frameText _ _⟩
  rw [frameBytes, List.length_append, List.length_singleton] at hroom
  rw [frameBytes, RxView.feedAll_line h.line_eq hclean hroom, h.evalLine_eq hm hcap]

theorem frameBytes_ne_nil (stream : Bytes) (j : Nat) (gs : List Nat) : frameBytes stream j gs ≠ [] :=
  List.append_ne_nil_of_right_ne_nil _ (List.cons_ne_nil _ _)

theorem flatten_framesFrom_cons (stream : Bytes) (j : Nat) (gs : List Nat) (fs : List (List Nat)) :
    (framesFrom stream j (gs :: fs)).flatten = frameBytes stream j gs ++ (framesFrom stream (j + 1) fs).flatten := rfl

/-- The frames from frame `j` on, which hold the last `r` groups: the packet is answered at the last byte, `ST_OK` before. -/
theorem AwaitsFrame.feedAll_framesFrom {data : Bytes} {p : BuildParams} (hfits : PayloadFits data)
    (hcap : data.length + 4 ≤ p.rawCap) : ∀ (fs : List (List Nat)) {v : RxView} {j a r : Nat}, AwaitsFrame data v j a →
    fs ≠ [] → (∀ gs ∈ fs, gs ≠ []) → fs.flatten = List.range' a r → a + r = groupCount data.length →
    (∀ f ∈ framesFrom (decodedStream data) j fs, f.length ≤ p.encCap) →
    v.feedAll p (framesFrom (decodedStream data) j fs).flatten =
      ({ packetView data (groupCount data.length) with stream := [] },
        okThen (framesFrom (decodedStream data) j fs).flatten { status := .packet, payload := .data data })
  | [gs], v, j, a, r, h, _, hne, hflat, hr, hroom => by
    obtain rfl : gs = List.range' a r := by simpa using hflat
    have hpos : 1 ≤ r := by simpa [Nat.one_le_iff_ne_zero] using hne
    have hwhole := judged_packetView_whole (a := groupCount data.length) hfits (by unfold groupCount; omega)
    simp only [framesFrom, List.mem_singleton, forall_eq, List.flatten_singleton] at hroom ⊢
    rw [h.feedAll_eq hpos hcap hroom, hr, hwhole]
  | gs :: gs' :: rest, v, j, a, r, h, _, hne, hflat, hr, hroom => by
    obtain ⟨hgs, hrest⟩ := List.forall_mem_cons.mp hne
    rw [List.flatten_cons, eq_comm, List.range'_eq_append_iff] at hflat
    obtain ⟨m, hmr, rfl, htail⟩ := hflat
    rw [Nat.mul_one] at htail
    have hm : 1 ≤ m := by simpa [Nat.one_le_iff_ne_zero] using hgs
    have hleft : 1 ≤ r - m := by
      have hgs' := List.length_pos_of_ne_nil (hrest gs' (by simp))
      have := congrArg List.length htail
      rw [List.flatten_cons, List.length_append, List.length_range'] at this
      omega
    have hmore := judged_packetView_more (a := a + m) hfits (by unfold groupCount at hr; omega)
    obtain ⟨hroomFirst, hroomRest⟩ := List.forall_mem_cons.mp hroom
    have ih := feedAll_framesFrom hfits hcap (gs' :: rest) (.next (j := j + 1) (a := a + m) (by omega) (by omega)) (by simp)
      hrest htail (by omega) hroomRest
    have hlater : (framesFrom (decodedStream data) (j + 1) (gs' :: rest)).flatten ≠ [] :=
      List.append_ne_nil_of_left_ne_nil (frameBytes_ne_nil _ _ _) _
    rw [flatten_framesFrom_cons, RxView.feedAll_append, h.feedAll_eq hm hcap hroomFirst, hmore, ih,
      okThen_append (frameBytes_ne_nil _ _ _) hlater]

/-- Settles O48: the frames are run on the list decoder, from an empty window. -/
theorem transmittedPacketIsDelivered : Obligations.TransmittedPacketIsDelivered := by
  intro s k data h hempty hk hk31 hfits henc hraw
  obtain ⟨stream, hstream⟩ := Option.isSome_iff_exists.mp h.rawWritten
  have hview : Views s { stream := stream, line := [], declared := s.declaredBodyLen } :=
    ⟨hstream, by rw [hempty]; rfl, rfl⟩
  obtain ⟨-, hlengths⟩ := frameCountAndLengths k data hk hk31 hfits
  obtain ⟨-, hgroups, -⟩ := crcGroupsShareTheFinalFrame k data.length hk
  have hrun := AwaitsFrame.feedAll_framesFrom hfits hraw (splitGroups k data.length)
    (.first (v := { stream := stream, line := [], declared := s.declaredBodyLen }) rfl)
    (splitLoop_ne_nil _ _ _ _ _ _) (fun gs hgs => (hgroups gs hgs).1)
    ((splitGroups_flatten k data.length).trans List.range_eq_range') (Nat.zero_add _)
    (fun f hf => (hlengths f hf).2.1.trans henc)
  obtain ⟨t, ht, hviewt, hr⟩ := feedAll_refines h hview (packetFrames k data).flatten
  change RxView.feedAll _ (packetFrames k data).flatten _ = _ at hrun
  rw [hrun] at hviewt hr
  exact ⟨t, ht, hviewt.stream_length.symm, hviewt.line_length.symm, hr.trans (List.append_assoc ..).symm⟩

end Sys2Proof
end

section
/-!
PROOFS. Exceptions (60_exceptions.md): malformed lines are discarded (R187), an error status changes no state (R191), no step
stops (R196), and copies of the block share nothing (R205). What a response says about the turn that gave it comes first.
-/

namespace Sys2Proof

open Machine

/-! ### The turn that gives a response -/

@[simp] theorem Machine.State.receiveAnswer_txResponses (s : State) (w : TxWork) :
    (s.receiveAnswer w).txResponses = s.txResponses := by
  cases hs : s.sinkAnswers with
  | nil => rw [receiveAnswer_none hs]
  | cons a rest => rw [receiveAnswer_some hs]

/-- With no TX_PACKET in progress there is no working set to drop. -/
theorem endTxPacket_of_idle {s : State} (hw : s.txWork = none) (r : Response) : s.endTxPacket r = s.respondTx r := by
  rw [State.endTxPacket, ← hw]

/-- A step of a TX_PACKET that gives a response ends the packet: a `Send` gives none (R174 to R176). -/
theorem txAdvance_responds {s : State} {w : TxWork} {r : Response}
    (h : (s.txAdvance w).txResponses = s.txResponses ++ [r]) : s.txAdvance w = s.endTxPacket r := by
  obtain ⟨e, -, ht⟩ | ⟨-, ht⟩ | ⟨-, -, ht⟩ | ⟨-, gs, -, ht⟩ := txAdvance_cases s w <;> rw [ht] at h ⊢
  · cases List.append_cancel_left h
    rfl
  · simp at h
  · cases List.append_cancel_left h
    rfl
  · simp at h

/-- A turn of the TX engine that gives a response, of whatever status, changes nothing but the bytes on its port, and no
TX_PACKET is in progress after it (10_state.md R31). -/
theorem txTurn_responds {s t : State} {r : Response} (h : txTurn s = .next t)
    (hr : t.txResponses = s.txResponses ++ [r]) : t = { s with txIn := t.txIn }.endTxPacket r := by
  obtain ⟨w, -, ht⟩ | ⟨-, ht, -⟩ | ⟨hw, why, rest, -, ht⟩ | ⟨hw, i, rest, hd, ht⟩ := txTurn_cases s
  · cases ht.symm.trans h
    rw [txAdvance_responds hr]
    rfl
  · cases ht.symm.trans h
    simp at hr
  · cases ht.symm.trans h
    cases List.append_cancel_left hr
    exact (endTxPacket_of_idle (s := { s with txIn := rest }) hw _).symm
  · obtain ⟨hport, hwf⟩ := decode_command_port hd
    obtain ⟨r', he⟩ | ⟨data, -, he⟩ := exec_tx hport hwf { s with txIn := rest }
    · cases (ht.trans he).symm.trans h
      cases List.append_cancel_left hr
      exact (endTxPacket_of_idle (s := { s with txIn := rest }) hw _).symm
    · cases (ht.trans he).symm.trans h
      rw [txAdvance_responds hr]
      rfl

/-- RX_RESET and RX_FEED answer no error status (R120, R141). -/
theorem exec_rx_status {i : Instr} (hp : i.port = .rx) {s t : State} {r : Response} (h : exec i s = .next t)
    (hr : t.rxResponses = s.rxResponses ++ [r]) : r.status.isError = false := by
  obtain rfl | ⟨b, rfl⟩ := port_eq_rx hp
  · cases h
    cases List.append_cancel_left hr
    rfl
  · obtain ⟨-, hok⟩ | ⟨-, body, hpacket, -⟩ := execRxFeed_answers h
    · cases List.append_cancel_left (hok.symm.trans hr)
      rfl
    · cases List.append_cancel_left (hpacket.symm.trans hr)
      rfl

/-- The one error status of the RX port is that of an illegal word, which changes nothing but the port (R197). -/
theorem rxTurn_error {s t : State} {r : Response} (h : rxTurn s = .next t)
    (hr : t.rxResponses = s.rxResponses ++ [r]) (herr : r.status.isError = true) :
    t = { s with rxIn := t.rxIn }.respondRx Response.illegal := by
  obtain ⟨ht, -⟩ | ⟨-, why, rest, -, ht⟩ | ⟨-, i, rest, hd, ht⟩ := rxTurn_cases s
  · cases ht.symm.trans h
    simp at hr
  · cases ht.symm.trans h
    rfl
  · have hok := exec_rx_status (decode_command_port hd).1 (ht.symm.trans h) hr
    exact absurd herr (Bool.eq_false_iff.mp hok)

/-! ### A system of copies -/

/-- What a step of copy `k` does: nothing where there is no such copy, else that copy's own step (R205). -/
theorem systemStep_next {k : Nat} {sys sys' : List State} (h : systemStep k sys = .next sys') :
    (sys[k]? = none ∧ sys' = sys) ∨ ∃ s t, sys[k]? = some s ∧ step s = .next t ∧ sys' = sys.set k t := by
  unfold systemStep at h
  split at h
  · next hnone =>
    cases h
    exact .inl ⟨hnone, rfl⟩
  · next s hs =>
    split at h
    · next t ht =>
      cases h
      exact .inr ⟨s, t, hs, ht, rfl⟩
    · cases h
    · cases h

/-! ### The statements -/

/-- Settles O16: each kind of malformed line has a verdict that discards it, and the newline then leaves `lineDiscarded`. -/
theorem malformedLineIsDiscarded : Obligations.MalformedLineIsDiscarded := by
  intro s line h hl hmalformed
  obtain ⟨e, he⟩ := exists_discard_of_malformed hmalformed
  exact ⟨e, execRxFeed_of_discard h hl he⟩

/-- Settles O47: on the RX port only an illegal word is answered with an error; on the TX port no turn that gives a response
does anything else. -/
theorem errorStatusChangesNoState : Obligations.ErrorStatusChangesNoState := by
  refine ⟨fun s t r h hr herr => ?_, fun s t r h hr _ => ?_⟩
  · rw [rxTurn_error h hr herr]
    rfl
  · rw [txTurn_responds h hr]
    rfl

/-- Settles O51, by `Inv.step_keeps`: under the invariant no buffer access of RX_FEED stops, and nothing else can. -/
theorem noStepStops : Obligations.NoStepStops := by
  intro s h
  obtain ⟨t, ht, -⟩ := h.step_keeps
  exact ⟨t, ht⟩

/-- Settles O10: the list keeps every copy but `k`, which takes its own step. -/
theorem copiesShareNothing : Obligations.CopiesShareNothing := by
  intro k sys sys' h
  obtain ⟨hnone, rfl⟩ | ⟨s, t, hs, ht, rfl⟩ := systemStep_next h
  · exact ⟨fun _ _ => rfl, fun s hs => nomatch hnone.symm.trans hs⟩
  · refine ⟨fun j hj => List.getElem?_set_ne hj.symm, fun u hu => ?_⟩
    cases hs.symm.trans hu
    exact ⟨t, ht, List.getElem?_set_self (List.getElem?_eq_some_iff.mp hs).1⟩

end Sys2Proof
end

section
/-!
PROOFS. Reset and hazards (70_reset_and_hazards.md): held commands wait for the response before them (R216) or for the
TX_PACKET in progress (R217) and then run, a silent sink holds the TX engine (R219), and the environment's moves, power-on
reset (R210, R211) among them. What one turn makes of a TX_PACKET in progress comes first.
-/

namespace Sys2Proof

open Machine

/-! ### A TX_PACKET in progress -/

/-- Whether the sink answers or not, the `Send` step leaves the packet in progress (R174, R175). -/
theorem receiveAnswer_txWork_ne_none (s : State) (w : TxWork) : (s.receiveAnswer w).txWork ≠ none := by
  cases hs : s.sinkAnswers with
  | nil => simp [receiveAnswer_none hs]
  | cons a rest => simp [receiveAnswer_some hs]

theorem txAdvance_txIn (s : State) (w : TxWork) : (s.txAdvance w).txIn = s.txIn := by
  rw [txAdvance_frame]

/-- A step of a TX_PACKET is a `Send` step, which gives no response, or gives the response that ends the packet (R224). -/
theorem txAdvance_stays_or_ends (s : State) (w : TxWork) :
    ((s.txAdvance w).txWork ≠ none ∧ (s.txAdvance w).txResponses = s.txResponses) ∨
    ∃ r, s.txAdvance w = s.endTxPacket r := by
  obtain ⟨e, -, ht⟩ | ⟨-, ht⟩ | ⟨-, -, ht⟩ | ⟨-, gs, -, ht⟩ := txAdvance_cases s w
  · exact .inr ⟨_, ht⟩
  · rw [ht]
    exact .inl ⟨receiveAnswer_txWork_ne_none s w, s.receiveAnswer_txResponses w⟩
  · exact .inr ⟨_, ht⟩
  · rw [ht]
    exact .inl ⟨receiveAnswer_txWork_ne_none _ w, State.receiveAnswer_txResponses _ w⟩

/-- A packet whose `Send` failed, or whose frames are all sent, has only its response left to give (R175, R176). -/
theorem txAdvance_ends {w : TxWork}
    (h : (∃ e, w.phase = .failed e) ∨ (w.phase = .offering ∧ w.frames.length ≤ w.next)) (s : State) :
    ∃ r, s.txAdvance w = s.endTxPacket r := by
  obtain ⟨e, -, ht⟩ | ⟨hwaiting, -⟩ | ⟨-, -, ht⟩ | ⟨hoffering, gs, hgs, -⟩ := txAdvance_cases s w
  · exact ⟨_, ht⟩
  · simp [hwaiting] at h
  · exact ⟨_, ht⟩
  · have hlt : w.next < w.frames.length := (List.getElem?_eq_some_iff.mp hgs).1
    simp [hoffering, hlt.not_ge] at h

/-! ### A silent sink -/

/-- A waiting engine that hears nothing goes on waiting (R219). -/
theorem txTurn_silent {s : State} {w : TxWork} (hw : s.txWork = some w) (hp : w.phase = .waiting)
    (hs : s.sinkAnswers = []) : txTurn s = .next s := by
  have hadvance : s.txAdvance w = s.receiveAnswer w := by rw [State.txAdvance, hp]
  rw [txTurn_inProgress hw, hadvance, receiveAnswer_none hs, ← hp, ← hw]

theorem txTurns_of_fixed {s : State} (h : txTurn s = .next s) (n : Nat) : txTurns n s = .next s := by
  induction n with
  | zero => rfl
  | succ n ih => rw [txTurns_succ h, ih]

/-! ### The statements -/

/-- Settles O54: each is the next move of the script. -/
theorem environmentMovesAreTheirEffects : Obligations.EnvironmentMovesAreTheirEffects :=
  ⟨fun _ _ h => step_script_cons h, fun _ _ _ h => step_script_cons h, fun _ _ _ h => step_script_cons h,
    fun _ _ _ h => step_script_cons h⟩

/-- Settles O12: the move is `State.powerOn`, whatever was in progress. -/
theorem powerOnAbandonsTheCommand : Obligations.PowerOnAbandonsTheCommand :=
  fun _ _ h => step_script_cons h

/-- Settles O7: the RX port accepts nothing, and the TX engine's turn is the packet's step. -/
theorem heldCommandsWait : Obligations.HeldCommandsWait := by
  refine ⟨fun s hu => rxTurn_idle (.inl hu), fun s w hw => ⟨_, txTurn_inProgress hw, txAdvance_txIn s w, ?_⟩⟩
  obtain hstays | ⟨r, hends⟩ := txAdvance_stays_or_ends s w
  · exact .inl hstays
  · rw [hends]
    exact .inr ⟨s.endTxPacket_txWork r, r, s.endTxPacket_txResponses r⟩

/-- Settles O41: one turn leaves the state as it is, so any number does. -/
theorem silentSinkHoldsTheTxEngine : Obligations.SilentSinkHoldsTheTxEngine :=
  fun _ _ n hw hp hs => txTurns_of_fixed (txTurn_silent hw hp hs) n

/-- Settles O55: the response frees its port and leaves the bytes waiting there, so the next turn decodes and runs them. -/
theorem heldCommandRunsAfterTheResponse : Obligations.HeldCommandRunsAfterTheResponse := by
  obtain ⟨takeRx, -⟩ := environmentMovesAreTheirEffects
  obtain ⟨rxTurnRuns, -⟩ := stepRunsTheDecodedCommand
  refine ⟨fun s moves i rest hs hd => ?_, fun s w i rest hw hended hd => ?_⟩
  · exact ⟨_, takeRx s _ hs, rxTurnRuns _ moves i rest rfl rfl hd⟩
  · obtain ⟨r, hends⟩ := txAdvance_ends hended s
    have hresponse : txTurn s = .next (s.endTxPacket r) := by rw [txTurn_inProgress hw, hends]
    exact ⟨_, r, hresponse, rfl, txTurn_command (s.endTxPacket_txWork r) hd⟩

end Sys2Proof
end

section
/-!
PROOFS. The last of the state and of the TX engine: the registers hold the counters of the Receive Context (10_state.md
section 2), and a waiting engine takes the answer that has come (43_tx_encoder.md R174, R175).
-/

namespace Sys2Proof

open Machine

/-! ### The counters of the Receive Context -/

theorem Inv.rawOffset_le_rawCap {s : State} (h : Inv s) : s.rawOffset ≤ s.cfg.rawCap := by
  obtain hzero | ⟨-, hcap, -⟩ := h.rawRange
  · rw [hzero]
    exact Nat.zero_le _
  · exact hcap

/-- The greatest RAW_CAP of R9 is less than `2 ^ 17`. -/
theorem Inv.rawOffset_lt {s : State} (h : Inv s) : s.rawOffset < 2 ^ 17 := by
  obtain ⟨-, hcap, -⟩ := h.admissible
  calc
    s.rawOffset ≤ s.cfg.rawCap := h.rawOffset_le_rawCap
    _ ≤ 65539 := hcap
    _ < 2 ^ 17 := by decide

/-- A full window is the largest value, and the register is as wide as it needs. -/
theorem Inv.encodedLen_lt {s : State} (h : Inv s) : s.encodedLen < 2 ^ Nat.clog 2 (s.cfg.encCap + 1) :=
  calc
    s.encodedLen < s.cfg.encCap + 1 := Nat.lt_succ_of_le h.windowRange
    _ ≤ 2 ^ Nat.clog 2 (s.cfg.encCap + 1) := Nat.le_pow_clog Nat.one_lt_two _

/-! ### A late answer -/

/-- A waiting engine takes the first answer listed; `TxWork.answered` says what becomes of the packet. -/
theorem txTurn_lateAnswer {s : State} {w : TxWork} {a : SendAnswer} {later : List SendAnswer}
    (hw : s.txWork = some w) (hp : w.phase = .waiting) (hs : s.sinkAnswers = a :: later) :
    txTurn s = .next { s with txWork := some (w.answered a), sinkAnswers := later } := by
  have hadvance : s.txAdvance w = s.receiveAnswer w := by rw [State.txAdvance, hp]
  rw [txTurn_inProgress hw, hadvance, receiveAnswer_some hs]

/-! ### The statements -/

/-- Settles O53: the invariant keeps each counter within its buffer's capacity. -/
theorem countersFitTheirRegisters : Obligations.CountersFitTheirRegisters :=
  fun _ h => ⟨h.rawOffset_lt, h.encodedLen_lt⟩

/-- Settles O57: one turn takes the answer, `Ok` or an error. -/
theorem lateAnswerIsTaken : Obligations.LateAnswerIsTaken :=
  fun _ _ _ hw hp => ⟨fun hs => txTurn_lateAnswer hw hp hs, fun _ hs => txTurn_lateAnswer hw hp hs⟩

end Sys2Proof
end
